-- ==== Sys2Proof/Syntax.lean ====
section
/-! DEFINITION. The twelve commands of spec/opcode_table.json and spec/30_encoding.md R81, one constructor a row. -/

namespace Sys2Proof

/-- A command. The word has no operand field: operands travel in `ARG0` and `ARG1` (R80, R82). -/
inductive Instr
  /-- `DRV_START`, Driver `start(params)` (R113). -/
  | drvStart
  /-- `DRV_STOP`, Driver `stop(params)` (R114). -/
  | drvStop
  /-- `DRV_UPDATE`, Driver `update(params, freqHz, dutyCycle)` (R115). -/
  | drvUpdate
  /-- `INIT`, Tone Controller `initialize()` (R132). -/
  | init
  /-- `ON`, Tone Controller `on(freqHz)` (R133). -/
  | on
  /-- `OFF`, Tone Controller `off()` (R134). -/
  | off
  /-- `UPDATE_FREQ`, Tone Controller `updateFrequency(freqHz)` (R135). -/
  | updateFreq
  /-- `MUTE`, Tone Controller `mute()` (R136). -/
  | mute
  /-- `UNMUTE`, Tone Controller `unmute()` (R137). -/
  | unmute
  /-- `PLAY`, Engine `play(distance)` (R168). -/
  | play
  /-- `PAUSE`, Engine `pause()` (R169). -/
  | pause
  /-- `ONTICK`, Engine `onTick()` (R179). -/
  | onTick
  deriving DecidableEq, Repr

end Sys2Proof
end

