-- ==== Sys2Proof/Word.lean ====
section
/-! DEFINITION. The word of the register port and the bit widths of spec/00_scope.md R11. -/

namespace Sys2Proof

/-- A `u32`: every register word, frequency, preload value and tick count (R11). -/
abbrev Word := BitVec 32

/-- A `u8`: the stored duty cycle (R11, R29). -/
abbrev Byte := BitVec 8

/-- A register index `REG_IDX` (R40, R60). -/
abbrev RegIdx := BitVec 4

/-- The largest `u32` (spec/00_scope.md section 5). -/
def wordMax : Nat := 2 ^ 32 - 1

/-- A `bool` as one bit of a word (spec/00_scope.md section 5). -/
def bit (b : Bool) : BitVec 1 := BitVec.ofBool b

end Sys2Proof
end

