-- ==== Sys2Proof/WellFormed.lean ====
section
/-! DEFINITION. The `CMDW` format of spec/30_encoding.md R80 as fields, and which field values are a command. -/

namespace Sys2Proof

/-- The one instruction format `CMDW`: `OPC` in bits [3:0], `RSV` in bits [31:4] (R80). -/
structure CmdWord where
  opc : BitVec 4
  rsv : BitVec 28
  deriving DecidableEq, Repr

/-- "reserved, must be 0" (R80, R86). -/
def CmdWord.reservedIsZero (c : CmdWord) : Bool := c.rsv == 0

/-- `OPC` 0 is no command (R81, R86). -/
def CmdWord.opcodeNotZero (c : CmdWord) : Bool := c.opc != 0

/-- `OPC` 0xD to 0xF is no command (R81, R86). -/
def CmdWord.opcodeAssigned (c : CmdWord) : Bool := decide (c.opc.toNat < 0xD)

/-- A legal command word: none of the three conditions of R86 holds. -/
def CmdWord.wellFormed (c : CmdWord) : Bool :=
  c.reservedIsZero && c.opcodeNotZero && c.opcodeAssigned

/-- Every command is well formed as syntax: it has no fields to check, and every value of `ARG0` and `ARG1` is an
operand (R82 to R85). -/
def Instr.wellFormed : Instr → Bool
  | .drvStart | .drvStop | .drvUpdate | .init | .on | .off | .updateFreq
  | .mute | .unmute | .play | .pause | .onTick => true

end Sys2Proof
end

