-- ==== Sys2Proof/Decode.lean ====
section
/-! DEFINITION. Command words to commands and back: the decoder and, after it, the encoder, both written from
spec/30_encoding.md R80, R81, R86. -/

namespace Sys2Proof

/-- Why a word is no command (R86). -/
inductive Illegal
  /-- `w[31:4] != 0` -/
  | reservedBits
  /-- `w[3:0] = 0` -/
  | opcodeZero
  /-- `w[3:0] >= 0xD` -/
  | opcodeUnassigned
  deriving DecidableEq, Repr

/-- The fields of a word written to CMD (R80). -/
def fieldsOf (w : Word) : CmdWord := { opc := w.extractLsb' 0 4, rsv := w.extractLsb' 4 28 }

/-- The opcode map of R81, rows 0x1 to 0xC. -/
def decodeOpc (opc : BitVec 4) : Except Illegal Instr :=
  match opc.toNat with
  | 0x0 => .error .opcodeZero
  | 0x1 => .ok .drvStart
  | 0x2 => .ok .drvStop
  | 0x3 => .ok .drvUpdate
  | 0x4 => .ok .init
  | 0x5 => .ok .on
  | 0x6 => .ok .off
  | 0x7 => .ok .updateFreq
  | 0x8 => .ok .mute
  | 0x9 => .ok .unmute
  | 0xA => .ok .play
  | 0xB => .ok .pause
  | 0xC => .ok .onTick
  | _ => .error .opcodeUnassigned

/-- The decoder, total on every word (R81, R86). -/
def decode (w : Word) : Except Illegal Instr :=
  let c := fieldsOf w
  if c.reservedIsZero then decodeOpc c.opc else .error .reservedBits

/-- The `OPC` value of a command (R81). -/
def opcOf : Instr → BitVec 4
  | .drvStart => 0x1
  | .drvStop => 0x2
  | .drvUpdate => 0x3
  | .init => 0x4
  | .on => 0x5
  | .off => 0x6
  | .updateFreq => 0x7
  | .mute => 0x8
  | .unmute => 0x9
  | .play => 0xA
  | .pause => 0xB
  | .onTick => 0xC

/-- The fields laid into a word: `{RSV, OPC}`, `RSV` in the high bits (R80). -/
def assemble (c : CmdWord) : Word := c.rsv ++ c.opc

/-- The encoder: the command's word (R80, R81). -/
def encode (i : Instr) : Word := assemble { opc := opcOf i, rsv := 0 }

/-- The `nbits` low bits of `w` as the word written to CMD, every bit above them 0. A number that does not fit the
32 bits of the port is no command word (log entry 16). -/
def tableWord (nbits w : Nat) : Option Word :=
  let n := w % 2 ^ nbits
  if n ≤ wordMax then some (BitVec.ofNat 32 n) else none

/-- The decoder on a row of spec/opcode_table.json: one command is one 32-bit word, bit 0 its least significant
bit (R67, R80). -/
def decodeTableWord (nbits w : Nat) : Option Instr :=
  match tableWord nbits w with
  | none => none
  | some word =>
    match decode word with
    | .ok i => some i
    | .error _ => none

end Sys2Proof
end

