-- ==== Sys2Proof/Config.lean ====
section
/-! DEFINITION. The open parameters of spec/00_scope.md R6 to R10 and of spec/20_memory.md R67, R75: what one build
of the hardware fixes and the spec gives no number for. -/

namespace Sys2Proof

/-- The byte order of a platform bridge, `REG_ENDIAN` (R67). -/
inductive ByteOrder
  | little
  | big
  deriving DecidableEq, Repr, Inhabited

/-- The parameters, each with the range the spec gives it. The default values only show that a value in range exists;
no definition of the model uses them. -/
structure Params where
  /-- `TICK_RATE`, a positive integer, in Hz (R6). -/
  tickRate : Nat := 1
  tickRate_pos : 1 ≤ tickRate := by decide
  /-- `DEFAULT_DUTY`, `1 <= DEFAULT_DUTY <= 100` (R7). -/
  defaultDuty : Nat := 1
  defaultDuty_range : 1 ≤ defaultDuty ∧ defaultDuty ≤ 100 := by decide
  /-- `BASE_FREQ_HZ`, an integer with `1 <= BASE_FREQ_HZ`, in Hz; the spec sets no upper bound (R8). -/
  baseFreqHz : Nat := 1
  baseFreqHz_pos : 1 ≤ baseFreqHz := by decide
  /-- `ON_TICKS_BASE`, `0 <= ON_TICKS_BASE <= 2^32 - 1` (R9). -/
  onTicksBase : Word := 0
  /-- `BEEP_SCALE`, a positive integer, in ticks per distance unit (R10). -/
  beepScale : Nat := 1
  beepScale_pos : 1 ≤ beepScale := by decide
  /-- `REG_BASE`, which no rule reads (R75). -/
  regBase : Nat := 0
  /-- `REG_ENDIAN`, which no rule reads (R67). -/
  regEndian : ByteOrder := .little
  deriving DecidableEq, Repr, Inhabited

/-- The parameters of the build at hand: open, so no value is given and nothing can be proved of them beyond the
ranges above (log entry 2). -/
opaque Config.build : Params

end Sys2Proof
end

