-- ==== Sys2Proof/Machine/State.lean ====
section
/-! DEFINITION. The state of the block (spec/10_state.md), the other arguments of its step, the faults and the one
refusal, and the reset state. -/

namespace Sys2Proof.Machine

/-- The fault causes `Fault(<cause>)` of R204, in the order of their codes 1 to 7 (R87).
A fault of this block is RECORDED and the block goes on (R200, R204), so a step that raises one answers a next state
and never `Host.Outcome.fault` (log entry 1). -/
inductive Fault
  /-- Raised by a write to CMD of a word that is no command (R86, R205). Safe: recorded, nothing executed. -/
  | illegalCommand
  /-- Raised by a write to register index 3 to 15 (R64, R65, R206). Safe: recorded, nothing written. -/
  | illegalAccess
  /-- Raised by `drv_start` when `RUN = 1`: DRV_START, ON, a first PLAY (R101, R207). Safe: recorded. -/
  | startWhileRunning
  /-- Raised by `drv_update` when the divisor is not positive: DRV_UPDATE, ON, UPDATE_FREQ, MUTE, UNMUTE, PAUSE, a
  first PLAY, a tick (R108, R208). Safe: recorded, no preload register written. -/
  | divisorZero
  /-- Raised by PLAY when the distance gives no `u32` of ticks (R162, R209). Safe: recorded. -/
  | distanceRange
  /-- Raised by INIT when `CLK_HZ_IN = 0` (R132, R210). Safe: recorded, still uninitialized. -/
  | clockZero
  /-- Raised by INIT when `TC_INIT = 1` (R132, R211). Safe: recorded. -/
  | initRepeated
  deriving DecidableEq, Repr

/-- The refusals: none is ever answered, since every command has its meaning. -/
inductive Refusal
  /-- For an arm of `exec` without a meaning; no arm is. Safe. -/
  | notModelled (mnemonic : String)
  deriving DecidableEq, Repr

/-- `RESULT`, two bits, all four codes named (R39, R87). -/
inductive Result
  | ok
  | notInitialized
  | invalidParameter
  | fault
  deriving DecidableEq, Repr

/-- Group (1) of R20: operands, result and fault record (R21, R39, R49). -/
structure HostRegs where
  arg0 : Word
  arg1 : Word
  result : Result
  fault : Bool
  /-- `FAULT_CAUSE`: `none` is code 0 (R39). -/
  faultCause : Option Fault
  deriving DecidableEq, Repr

/-- Group (2) of R20, the record `TimerChannelParams` (R23 to R26). -/
structure TimerChannelParams where
  timId : BitVec 8
  chIdx : BitVec 3
  chN : Bool
  clockHz : Word
  deriving DecidableEq, Repr

/-- Group (3) of R20, the record `ToneState` (R27 to R29). -/
structure ToneState where
  tcInit : Bool
  toneFreq : Word
  toneDuty : Byte
  deriving DecidableEq, Repr

/-- Group (4) of R20, the Driver's applicator state (R30 to R32). The active copies are the timer's: a `u32`, or the
mark `unspecified`, written `none` (R32, R118). -/
structure DriverState where
  run : Bool
  pscPre : Word
  periodPre : Word
  pulsePre : Word
  pscAct : Option Word
  periodAct : Option Word
  pulseAct : Option Word
  deriving DecidableEq, Repr

/-- Group (5) of R20, the record `CadenceState` (R33 to R38). -/
structure CadenceState where
  ceInit : Bool
  tickCnt : Word
  onTicks : Word
  offTicks : Word
  audible : Bool
  paused : Bool
  deriving DecidableEq, Repr

/-- The state of the block: "the union of five groups, and nothing else" (R20). -/
structure Block where
  host : HostRegs
  chan : TimerChannelParams
  tone : ToneState
  drv : DriverState
  cad : CadenceState
  deriving DecidableEq, Repr

/-- The table of R47: everything 0, the active copies `unspecified`. -/
def Block.reset : Block where
  host := { arg0 := 0, arg1 := 0, result := .ok, fault := false, faultCause := none }
  chan := { timId := 0, chIdx := 0, chN := false, clockHz := 0 }
  tone := { tcInit := false, toneFreq := 0, toneDuty := 0 }
  drv := { run := false, pscPre := 0, periodPre := 0, pulsePre := 0,
           pscAct := none, periodAct := none, pulseAct := none }
  cad := { ceInit := false, tickCnt := 0, onTicks := 0, offTicks := 0, audible := false, paused := false }

/-- The levels on the input ports that INIT samples (R40). -/
structure Pins where
  clkHzIn : Word
  timSel : BitVec 8
  chSel : BitVec 3
  chNSel : Bool
  deriving DecidableEq, Repr

/-- What a step of the machine is a response to (R13, R70). -/
inductive Event
  /-- A host read of register `idx` (R61). -/
  | regRead (idx : RegIdx)
  /-- A host write of `wdata` to register `idx` (R62 to R65). -/
  | regWrite (idx : RegIdx) (wdata : Word)
  /-- The timer's `CYCLE_COMPLETE` (R119). -/
  | cycleComplete
  /-- The `RESET` input (R230). -/
  | reset
  deriving DecidableEq, Repr

/-- One step's inputs: the event, and the port levels while the step runs (R40, R48). -/
structure Input where
  event : Event
  pins : Pins
  deriving DecidableEq, Repr

/-- The arguments of the step that are not state of the block (R20, R40, R48): the parameters, the port levels of the
current step, and the inputs not yet taken, in the order the steps take them (R70, R71; log entries 2, 3). -/
structure Env where
  params : Params
  pins : Pins
  inputs : List Input
  deriving DecidableEq, Repr

/-- What the step function is given: the block and the step's other arguments. -/
structure State where
  block : Block
  env : Env
  deriving DecidableEq, Repr

/-- Port levels before the first step: DESIGN CHOICE, all 0 (log entry 4). -/
def Pins.low : Pins := { clkHzIn := 0, timSel := 0, chSel := 0, chNSel := false }

/-- Right after reset: the block as R47 says, the parameters of the build, and no input requested yet. -/
def State.reset : State where
  block := Block.reset
  env := { params := Config.build, pins := Pins.low, inputs := [] }

end Sys2Proof.Machine
end

