-- ==== Sys2Proof/Machine/Ops.lean ====
section
/-! DEFINITION. The named writes to the block, how a pseudocode ends and how calls are chained, and the fault
mechanism of spec/60_exceptions.md R204, the block's only answer in place of an exception (R216). -/

namespace Sys2Proof.Machine

/-! ### Writes to the block -/

/-- `ARG0 <- v` (R62). -/
def Block.withArg0 (b : Block) (v : Word) : Block := { b with host.arg0 := v }

/-- `ARG1 <- v` (R62). -/
def Block.withArg1 (b : Block) (v : Word) : Block := { b with host.arg1 := v }

/-- `RESULT <- r` (R63). -/
def Block.withResult (b : Block) (r : Result) : Block := { b with host.result := r }

/-- INIT's writes: the four fields of `TimerChannelParams` and `TC_INIT <- 1` (R132). -/
def Block.bindChannel (b : Block) (p : Pins) : Block :=
  { b with
    chan := { timId := p.timSel, chIdx := p.chSel, chN := p.chNSel, clockHz := p.clkHzIn }
    tone.tcInit := true }

/-- `TONE_FREQ <- f` (R139). -/
def Block.withToneFreq (b : Block) (f : Word) : Block := { b with tone.toneFreq := f }

/-- `TONE_DUTY <- d` (R139). -/
def Block.withToneDuty (b : Block) (d : Byte) : Block := { b with tone.toneDuty := d }

/-- `drv_start`'s writes: `RUN <- 1` and the active copies `unspecified` (R101). -/
def Block.startRun (b : Block) : Block :=
  { b with drv.run := true, drv.pscAct := none, drv.periodAct := none, drv.pulseAct := none }

/-- `RUN <- 0` (R102). -/
def Block.stopRun (b : Block) : Block := { b with drv.run := false }

/-- The applicator: the three preload registers, written together (R111). -/
def Block.withPreload (b : Block) (psc period pulse : Word) : Block :=
  { b with drv.pscPre := psc, drv.periodPre := period, drv.pulsePre := pulse }

/-- The timer's reload: the three active copies, written together (R117). -/
def Block.reload (b : Block) : Block :=
  { b with drv.pscAct := some b.drv.pscPre, drv.periodAct := some b.drv.periodPre,
           drv.pulseAct := some b.drv.pulsePre }

/-- `AUDIBLE <- a`. -/
def Block.withAudible (b : Block) (a : Bool) : Block := { b with cad.audible := a }

/-- `TICK_CNT <- n`. -/
def Block.withTickCnt (b : Block) (n : Word) : Block := { b with cad.tickCnt := n }

/-- `PAUSED <- 1; TICK_CNT <- 0` (R169). -/
def Block.enterPause (b : Block) : Block := { b with cad.paused := true, cad.tickCnt := 0 }

/-- `AUDIBLE <- 0; TICK_CNT <- 0; CE_INIT <- 1` (R165). -/
def Block.startEngine (b : Block) : Block :=
  { b with cad.audible := false, cad.tickCnt := 0, cad.ceInit := true }

/-- `ON_TICKS <- on; OFF_TICKS <- off; PAUSED <- 0` (R167). -/
def Block.withBounds (b : Block) (on off : Word) : Block :=
  { b with cad.onTicks := on, cad.offTicks := off, cad.paused := false }

/-! ### The fault mechanism -/

/-- The record of a fault: `FAULT <- 1`, and `FAULT_CAUSE` for the first fault only (R204). -/
def Block.recordFault (b : Block) (c : Fault) : Block :=
  { b with host.fault := true, host.faultCause := if b.host.fault then b.host.faultCause else some c }

/-- How a pseudocode ends: `return <Result>` or `raise Fault(<cause>)` (spec/00_scope.md section 5). -/
inductive Reply
  | ok
  | notInitialized
  | invalidParameter
  | raised (c : Fault)
  deriving DecidableEq, Repr

/-- The result code of a command that ended so (R201, R204). -/
def Reply.result : Reply → Result
  | .ok => .ok
  | .notInitialized => .notInitialized
  | .invalidParameter => .invalidParameter
  | .raised _ => .fault

/-- What an operation leaves: the block with every write made so far, and how it ended. -/
abbrev Ran := Block × Reply

/-- The fault record of an operation that raised; any other ending records nothing (R204). -/
def Ran.recorded : Ran → Block
  | (b, .raised c) => b.recordFault c
  | (b, _) => b

/-- The end of a write to CMD: the fault record, then `RESULT` (R63, R204). -/
def Ran.asCommand (m : Ran) : Block := m.recorded.withResult m.2.result

/-- The end of an event: the fault record; an event does not change `RESULT` (R119, R204). -/
def Ran.asEvent (m : Ran) : Block := m.recorded

/-! ### Calls -/

/-- `r = call OP; if r != OK then return r; ...`: go on after an `OK`, else end as the call ended. -/
def Ran.thenOk (m : Ran) (k : Block → Ran) : Ran :=
  match m with
  | (b, .ok) => k b
  | (b, r) => (b, r)

/-- `r = call OP; if r = OK then ...; return r`: writes made only after an `OK`. -/
def Ran.onOk (m : Ran) (w : Block → Block) : Ran :=
  match m with
  | (b, .ok) => (w b, .ok)
  | (b, r) => (b, r)

/-- `r = call OP; ...; return r`: writes made unless the call raised a fault, which ends the step at once (R178, R204;
log entry 14). -/
def Ran.unlessRaised (m : Ran) (w : Block → Block) : Ran :=
  match m with
  | (b, .raised c) => (b, .raised c)
  | (b, r) => (w b, r)

/-- The initialisation guard: `if TC_INIT = 0 then return NotInitialized` (R131). -/
def guarded (b : Block) (k : Block → Ran) : Ran :=
  if b.tone.tcInit then k b else (b, .notInitialized)

/-! ### A command as a step -/

/-- A command runs as one atomic step on the block and answers a next state, also after a fault (R70, R200). -/
def command (op : Block → Ran) (s : State) : Host.Outcome State Fault Refusal :=
  .next { s with block := (op s.block).asCommand }

/-- A step that only writes the block. -/
def State.onBlock (s : State) (w : Block → Block) : State := { s with block := w s.block }

end Sys2Proof.Machine
end

