-- ==== Sys2Proof/Machine/Flags.lean ====
section
/-! DEFINITION. The words and signals computed from the flags: the codes of spec/30_encoding.md R87, STATUS and BIND of
spec/10_state.md R43, R44, the cadence phase of R45 and the outputs of R41. -/

namespace Sys2Proof.Machine

/-- The result codes (R87). -/
def Result.code : Result → BitVec 2
  | .ok => 0
  | .notInitialized => 1
  | .invalidParameter => 2
  | .fault => 3

/-- The cause codes (R87). -/
def Fault.code : Fault → BitVec 4
  | .illegalCommand => 1
  | .illegalAccess => 2
  | .startWhileRunning => 3
  | .divisorZero => 4
  | .distanceRange => 5
  | .clockZero => 6
  | .initRepeated => 7

/-- `FAULT_CAUSE`, 0 if none (R39, R87). -/
def causeCode : Option Fault → BitVec 4
  | none => 0
  | some c => c.code

/-- A field with its lowest bit at bit `lo` of a register word, every other bit 0. -/
def field {n : Nat} (lo : Nat) (v : BitVec n) : Word := v.setWidth 32 <<< lo

/-- `STATUS`, field by field; the bits of no field read 0 (R43). -/
def statusWord (b : Block) : Word :=
  field 0 b.host.result.code ||| field 2 (bit b.host.fault) ||| field 3 (causeCode b.host.faultCause) |||
    field 8 (bit b.tone.tcInit) ||| field 9 (bit b.drv.run) ||| field 10 (bit b.cad.ceInit) |||
    field 11 (bit b.cad.audible) ||| field 12 (bit b.cad.paused)

/-- `BIND`, field by field; the bits of no field read 0 (R44). -/
def bindWord (b : Block) : Word :=
  field 0 b.chan.timId ||| field 8 b.chan.chIdx ||| field 11 (bit b.chan.chN)

/-- The states of the Engine (R45, R161). -/
inductive Phase
  | uninitialized
  | playingAudible
  | playingMuted
  | paused
  deriving DecidableEq, Repr

/-- Each state of the Engine is a condition on three flags (R45). -/
def phaseOf (c : CadenceState) : Phase :=
  if c.ceInit = false then .uninitialized
  else if c.paused then .paused
  else if c.audible then .playingAudible
  else .playingMuted

/-- `PWM_EN_MAIN = RUN AND NOT CH_N` (R41). -/
def pwmEnMain (b : Block) : Bool := b.drv.run && !b.chan.chN

/-- `PWM_EN_COMP = RUN AND CH_N` (R41). -/
def pwmEnComp (b : Block) : Bool := b.drv.run && b.chan.chN

/-- `CC_IE = RUN` (R41, R214). -/
def ccIe (b : Block) : Bool := b.drv.run

/-- The signals driven to the external timer (R41, R116): the selection, the preload values and the enables. -/
structure TimerOutputs where
  timId : BitVec 8
  chIdx : BitVec 3
  pscPre : Word
  periodPre : Word
  pulsePre : Word
  pwmEnMain : Bool
  pwmEnComp : Bool
  ccIe : Bool
  deriving DecidableEq, Repr

/-- "Every output is a pure function of state; none is state of its own" (R41). -/
def timerOutputs (b : Block) : TimerOutputs where
  timId := b.chan.timId
  chIdx := b.chan.chIdx
  pscPre := b.drv.pscPre
  periodPre := b.drv.periodPre
  pulsePre := b.drv.pulsePre
  pwmEnMain := pwmEnMain b
  pwmEnComp := pwmEnComp b
  ccIe := ccIe b

end Sys2Proof.Machine
end

