-- ==== Sys2Proof/Machine/Operands.lean ====
section
/-! DEFINITION. The operands of spec/30_encoding.md R82 to R85, the binary32 reading of R88, and the distance
conversion of spec/42_cadence_engine.md R162. -/

namespace Sys2Proof.Machine

/-- `freqHz`: all 32 bits of `ARG0`, unsigned (R83). -/
def freqOperand (b : Block) : Nat := b.host.arg0.toNat

/-- `dutyCycle`: all 32 bits of `ARG1`, unsigned (R84). -/
def dutyOperand (b : Block) : Nat := b.host.arg1.toNat

/-- `distance`: all 32 bits of `ARG0` (R85). -/
def distanceOperand (b : Block) : Word := b.host.arg0

/-- What a word denotes as a binary32 value (R88). Every finite one is an integer multiple of `2^(-149)`, and
`finite n` is the exact number `n × 2^(-149)` (log entry 10). -/
inductive Value32
  | nan
  | posInf
  | negInf
  | finite (units : Int)
  deriving DecidableEq, Repr

/-- `s = w[31]` (R88). -/
def signOf (w : Word) : Bool := w.getLsbD 31

/-- `e = w[30:23]` (R88). -/
def exponentOf (w : Word) : Nat := (w.extractLsb' 23 8).toNat

/-- `m = w[22:0]` (R88). -/
def fractionOf (w : Word) : Nat := (w.extractLsb' 0 23).toNat

/-- The magnitude of a finite word in units of `2^(-149)`: `m` when `e = 0`, else `(2^23 + m) × 2^(e - 1)` (R88). -/
def magnitudeOf (w : Word) : Nat :=
  if exponentOf w = 0 then fractionOf w else (2 ^ 23 + fractionOf w) * 2 ^ (exponentOf w - 1)

/-- `value32(w)` (R88). -/
def value32 (w : Word) : Value32 :=
  if exponentOf w = 255 then
    if fractionOf w ≠ 0 then .nan else if signOf w then .negInf else .posInf
  else if signOf w then .finite (-(magnitudeOf w : Int)) else .finite (magnitudeOf w)

/-- `floor(v × BEEP_SCALE)` for `v = units × 2^(-149)`: the exact product, floored (R162). -/
def scaledFloor (scale : Nat) (units : Int) : Int := units * scale / 2 ^ 149

/-- `dist_to_ticks(w)` (R162): the ticks, or the fault `DistanceRange`. -/
def distToTicks (p : Params) (w : Word) : Except Fault Word :=
  match value32 w with
  | .nan | .posInf | .negInf => .error .distanceRange
  | .finite v =>
    if v < 0 then .error .distanceRange
    else if scaledFloor p.beepScale v > wordMax then .error .distanceRange
    else .ok (BitVec.ofInt 32 (scaledFloor p.beepScale v))

end Sys2Proof.Machine
end

