-- ==== Sys2Proof/Machine/Driver.lean ====
section
/-! DEFINITION. The PWM Signal Driver (spec/40_pwm_driver.md): the calculator, the internal operations `drv_start`,
`drv_stop`, `drv_update`, and the commands DRV_START, DRV_STOP, DRV_UPDATE. -/

namespace Sys2Proof.Machine

/-- `psc = floor(CLOCK_HZ / TICK_RATE) - 1`, a mathematical integer that may be -1 or 0 (R106). -/
def prescaler (p : Params) (clk : Nat) : Int := (clk / p.tickRate : Nat) - 1

/-- `period = floor(CLOCK_HZ / (psc × f))`, the product exact (R107). -/
def period (clk psc f : Nat) : Nat := clk / (psc * f)

/-- `pulse = floor((period × d + 50) / 100)`, an exact half rounded up (R109). -/
def pulse (period d : Nat) : Nat := (period * d + 50) / 100

/-- `drv_start()` (R101). -/
def drvStart (b : Block) : Ran :=
  if b.drv.run then (b, .raised .startWhileRunning) else (b.startRun, .ok)

/-- `drv_stop()` (R102). -/
def drvStop (b : Block) : Ran := (b.stopRun, .ok)

/-- `drv_update(f, d)` (R112): validity check, then divisor check, then the write (R104). Each of the three results of a
passing calculation is below `2^32`, so the words hold the exact numbers (R110). -/
def drvUpdate (p : Params) (f d : Nat) (b : Block) : Ran :=
  let clk := b.chan.clockHz.toNat
  if f > clk ∨ d > 100 then (b, .invalidParameter)
  else if prescaler p clk < 1 ∨ f = 0 then (b, .raised .divisorZero)
  else
    let psc := (prescaler p clk).toNat
    let per := period clk psc f
    (b.withPreload (BitVec.ofNat 32 psc) (BitVec.ofNat 32 per) (BitVec.ofNat 32 (pulse per d)), .ok)

/-- `DRV_START` (R113). -/
def execDrvStart (s : State) : Host.Outcome State Fault Refusal :=
  command (fun b => guarded b drvStart) s

/-- `DRV_STOP` (R114). -/
def execDrvStop (s : State) : Host.Outcome State Fault Refusal :=
  command (fun b => guarded b drvStop) s

/-- `DRV_UPDATE f, d` with `f = ARG0`, `d = ARG1` (R115). -/
def execDrvUpdate (s : State) : Host.Outcome State Fault Refusal :=
  command (fun b => guarded b (drvUpdate s.env.params (freqOperand b) (dutyOperand b))) s

end Sys2Proof.Machine
end

