-- ==== Sys2Proof/Machine/Tone.lean ====
section
/-! DEFINITION. The Tone Controller (spec/41_tone_controller.md): its operations, which the Engine calls too (R130), and
the commands INIT, ON, OFF, UPDATE_FREQ, MUTE, UNMUTE. -/

namespace Sys2Proof.Machine

/-- `INIT`'s pseudocode on the sampled ports (R132). -/
def toneInit (p : Pins) (b : Block) : Ran :=
  if b.tone.tcInit then (b, .raised .initRepeated)
  else if p.clkHzIn = 0 then (b, .raised .clockZero)
  else (b.bindChannel p, .ok)

/-- `ON(f)`: start first, update second (R133). -/
def toneOn (p : Params) (f : Nat) (b : Block) : Ran :=
  guarded b fun b =>
    (drvStart b).thenOk fun b =>
      (drvUpdate p f p.defaultDuty b).onOk fun b =>
        (b.withToneFreq (BitVec.ofNat 32 f)).withToneDuty (BitVec.ofNat 8 p.defaultDuty)

/-- `OFF` (R134). -/
def toneOff (b : Block) : Ran := guarded b drvStop

/-- `UPDATE_FREQ(f)`, with the stored duty cycle (R135). -/
def toneUpdateFreq (p : Params) (f : Nat) (b : Block) : Ran :=
  guarded b fun b => (drvUpdate p f b.tone.toneDuty.toNat b).onOk fun b => b.withToneFreq (BitVec.ofNat 32 f)

/-- `MUTE()`, with the stored frequency and duty cycle 0 (R136). -/
def toneMute (p : Params) (b : Block) : Ran :=
  guarded b fun b => (drvUpdate p b.tone.toneFreq.toNat 0 b).onOk fun b => b.withToneDuty 0

/-- `UNMUTE()`, with the stored frequency and the audible duty cycle (R137). -/
def toneUnmute (p : Params) (b : Block) : Ran :=
  guarded b fun b =>
    (drvUpdate p b.tone.toneFreq.toNat p.defaultDuty b).onOk fun b => b.withToneDuty (BitVec.ofNat 8 p.defaultDuty)

/-- `INIT` samples the ports of this step (R40, R132). -/
def execInit (s : State) : Host.Outcome State Fault Refusal :=
  command (toneInit s.env.pins) s

/-- `ON f` with `f = ARG0` (R133). -/
def execOn (s : State) : Host.Outcome State Fault Refusal :=
  command (fun b => toneOn s.env.params (freqOperand b) b) s

/-- `OFF` (R134). -/
def execOff (s : State) : Host.Outcome State Fault Refusal :=
  command toneOff s

/-- `UPDATE_FREQ f` with `f = ARG0` (R135). -/
def execUpdateFreq (s : State) : Host.Outcome State Fault Refusal :=
  command (fun b => toneUpdateFreq s.env.params (freqOperand b) b) s

/-- `MUTE` (R136). -/
def execMute (s : State) : Host.Outcome State Fault Refusal :=
  command (toneMute s.env.params) s

/-- `UNMUTE` (R137). -/
def execUnmute (s : State) : Host.Outcome State Fault Refusal :=
  command (toneUnmute s.env.params) s

end Sys2Proof.Machine
end

