-- ==== Sys2Proof/Machine/Cadence.lean ====
section
/-! DEFINITION. The Beep Cadence Engine (spec/42_cadence_engine.md): the tick transition, PLAY, PAUSE, ONTICK, and the
cycle-complete event that runs the transition after the timer's reload (spec/40_pwm_driver.md R119). -/

namespace Sys2Proof.Machine

/-- The cases of the tick transition while playing: steps 1 to 5 and "no step" (R172 to R177). -/
inductive TickCase
  | recover
  | stayAudible
  | flipMuted
  | stayMuted
  | flipAudible
  | noStep
  deriving DecidableEq, Repr

/-- Which case applies, "in this fixed priority order"; `t` is the counter at the start, every comparison unsigned
(R172 to R177). -/
def tickCase (c : CadenceState) : TickCase :=
  let t := c.tickCnt.toNat
  let on := c.onTicks.toNat
  let off := c.offTicks.toNat
  if t > on ∧ t > off then .recover
  else if c.audible = true ∧ t < on then .stayAudible
  else if c.audible = true ∧ t = on then .flipMuted
  else if c.audible = false ∧ t < off then .stayMuted
  else if c.audible = false ∧ t = off then .flipAudible
  else .noStep

/-- `ontick()` (R178). A counter write after a call is made unless the call raised; `t + 1` wraps modulo 2^32 (R177). -/
def ontick (p : Params) (b : Block) : Ran :=
  if b.cad.ceInit = false then (b, .ok)
  else if b.cad.paused then toneMute p b
  else
    let t := b.cad.tickCnt
    match tickCase b.cad with
    | .recover => (toneUnmute p (b.withAudible true)).unlessRaised (·.withTickCnt 0)
    | .stayAudible => (toneUnmute p b).unlessRaised (·.withTickCnt (t + 1))
    | .flipMuted => (toneMute p (b.withAudible false)).unlessRaised (·.withTickCnt 0)
    | .stayMuted => (toneMute p b).unlessRaised (·.withTickCnt (t + 1))
    | .flipAudible => (toneUnmute p (b.withAudible true)).unlessRaised (·.withTickCnt 0)
    | .noStep => (b.withTickCnt (t + 1), .ok)

/-- PLAY's first-call part: the tone on at the base frequency, muted, the Engine initialized (R165, R166). -/
def playFirst (p : Params) (b : Block) : Ran :=
  (toneOn p p.baseFreqHz b).thenOk fun b => (toneMute p b).thenOk fun b => (b.startEngine, .ok)

/-- `PLAY(w)` (R168): the guard, the distance before anything else (R164), the first call, the common part (R167). -/
def play (p : Params) (w : Word) (b : Block) : Ran :=
  guarded b fun b =>
    match distToTicks p w with
    | .error c => (b, .raised c)
    | .ok off =>
      let first : Ran := if b.cad.ceInit then (b, .ok) else playFirst p b
      first.thenOk fun b => (b.withBounds p.onTicksBase off, .ok)

/-- `PAUSE` (R169): the guard is the Engine's own. -/
def pause (p : Params) (b : Block) : Ran :=
  if b.cad.ceInit then toneMute p b.enterPause else (b, .notInitialized)

/-- `PLAY x` with the distance word in `ARG0` (R168). -/
def execPlay (s : State) : Host.Outcome State Fault Refusal :=
  command (fun b => play s.env.params (distanceOperand b) b) s

/-- `PAUSE` (R169). -/
def execPause (s : State) : Host.Outcome State Fault Refusal :=
  command (pause s.env.params) s

/-- `ONTICK`: the transition with neither the `RUN` gate nor the reload (R179). -/
def execOnTick (s : State) : Host.Outcome State Fault Refusal :=
  command (ontick s.env.params) s

/-- `TICK_EVENT`: ignored while `RUN = 0`, else the reload and then the tick transition (R119, R180). -/
def tickEvent (p : Params) (b : Block) : Block :=
  if b.drv.run then (ontick p b.reload).asEvent else b

end Sys2Proof.Machine
end

