-- ==== Sys2Proof/Machine/Dispatch.lean ====
section
/-! DEFINITION. One arm per command of spec/opcode_table.json, each one call of its meaning. -/

namespace Sys2Proof.Machine

def exec (i : Instr) (s : State) : Host.Outcome State Fault Refusal :=
  match i with
  | .drvStart => Sys2Proof.Machine.execDrvStart s
  | .drvStop => Sys2Proof.Machine.execDrvStop s
  | .drvUpdate => Sys2Proof.Machine.execDrvUpdate s
  | .init => Sys2Proof.Machine.execInit s
  | .on => Sys2Proof.Machine.execOn s
  | .off => Sys2Proof.Machine.execOff s
  | .updateFreq => Sys2Proof.Machine.execUpdateFreq s
  | .mute => Sys2Proof.Machine.execMute s
  | .unmute => Sys2Proof.Machine.execUnmute s
  | .play => Sys2Proof.Machine.execPlay s
  | .pause => Sys2Proof.Machine.execPause s
  | .onTick => Sys2Proof.Machine.execOnTick s

end Sys2Proof.Machine
end

