-- ==== Sys2Proof/Machine/Port.lean ====
section
/-! DEFINITION. The register port (spec/20_memory.md R60 to R66, spec/10_state.md R42), the RESET event
(spec/70_reset_and_hazards.md R230), and one step's response to its input (R70). -/

namespace Sys2Proof.Machine

/-! ### The register file of R42 -/

def regCmd : RegIdx := 0
def regArg0 : RegIdx := 1
def regArg1 : RegIdx := 2
def regStatus : RegIdx := 3
def regClockHz : RegIdx := 4
def regBind : RegIdx := 5
def regToneFreq : RegIdx := 6
def regToneDuty : RegIdx := 7
def regPscPre : RegIdx := 8
def regPeriodPre : RegIdx := 9
def regPulsePre : RegIdx := 10
def regTickCnt : RegIdx := 11
def regOnTicks : RegIdx := 12
def regOffTicks : RegIdx := 13

/-- `RegRead(i)`: the content of register `i`, undefined bits 0; CMD and the reserved indices read 0 (R42, R61). -/
def regRead (b : Block) (i : RegIdx) : Word :=
  match i.toNat with
  | 1 => b.host.arg0
  | 2 => b.host.arg1
  | 3 => statusWord b
  | 4 => b.chan.clockHz
  | 5 => bindWord b
  | 6 => b.tone.toneFreq
  | 7 => b.tone.toneDuty.zeroExtend 32
  | 8 => b.drv.pscPre
  | 9 => b.drv.periodPre
  | 10 => b.drv.pulsePre
  | 11 => b.cad.tickCnt
  | 12 => b.cad.onTicks
  | 13 => b.cad.offTicks
  | _ => 0

/-- A write to CMD of a word that is no command: the fault, and `RESULT <- 3` (R86, R205). -/
def illegalCommand (s : State) : Host.Outcome State Fault Refusal :=
  command (fun b => (b, .raised .illegalCommand)) s

/-- A write to a read-only or reserved index: the fault, `RESULT` left as it was (R64, R65, R206). -/
def illegalAccess (b : Block) : Block := b.recordFault .illegalAccess

/-- A write to CMD runs the command that the word encodes (R63, R86). -/
def writeCmd (w : Word) (s : State) : Host.Outcome State Fault Refusal :=
  match decode w with
  | .ok i => exec i s
  | .error _ => illegalCommand s

/-- `RegWrite(i, v)` (R62 to R65). -/
def regWrite (i : RegIdx) (v : Word) (s : State) : Host.Outcome State Fault Refusal :=
  match i.toNat with
  | 0 => writeCmd v s
  | 1 => .next (s.onBlock (·.withArg0 v))
  | 2 => .next (s.onBlock (·.withArg1 v))
  | _ => .next (s.onBlock illegalAccess)

/-- The RESET event: every state element at its value of R47 (R230). -/
def resetEvent (s : State) : State := s.onBlock fun _ => Block.reset

/-- One step's response to its event (R13, R70). A read changes no state (R61). -/
def respond (e : Event) (s : State) : Host.Outcome State Fault Refusal :=
  match e with
  | .regRead _ => .next s
  | .regWrite i v => regWrite i v s
  | .cycleComplete => .next (s.onBlock (tickEvent s.env.params))
  | .reset => .next (resetEvent s)

/-- The step's input taken: it is no longer pending, and its port levels are the current ones (R40, R77). -/
def State.take (s : State) (inp : Input) (rest : List Input) : State :=
  { s with env := { s.env with pins := inp.pins, inputs := rest } }

/-- One step: the next input taken and answered; with none requested the block does nothing (R231; log entry 3). -/
def nextStep (s : State) : Host.Outcome State Fault Refusal :=
  match s.env.inputs with
  | [] => .next s
  | inp :: rest => respond inp.event (s.take inp rest)

/-- `REG_RDATA`: the data of the read that the next step takes, if that step is a read (R41, R61; log entry 12). -/
def regRData (s : State) : Option Word :=
  match s.env.inputs with
  | ⟨.regRead i, _⟩ :: _ => some (regRead s.block i)
  | _ => none

/-- A request placed before the pending ones, the port levels as they are. -/
def State.request (s : State) (e : Event) : State :=
  { s with env := { s.env with inputs := { event := e, pins := s.env.pins } :: s.env.inputs } }

/-- The host's next access is the write to CMD of the word (R60, R63); a number that is no 32-bit word is no
request (log entry 16). -/
def requestCommand (s : State) (nbits w : Nat) : State :=
  match tableWord nbits w with
  | some word => s.request (.regWrite regCmd word)
  | none => s

end Sys2Proof.Machine
end

