-- ==== Sys2Proof/Machine/Script.lean ====
section
/-! DEFINITION. The script notation of spec/30_encoding.md R90 to R92: lines, pseudo-instructions and their expansion to
the inputs of steps. A distance is written as its binary32 word, which is what is normative (R90; log entry 17). -/

namespace Sys2Proof.Machine

/-- A line of a script; `reg` is a register index (R90), and the rest are the pseudo-instructions of R91. -/
inductive Line
  | wr (reg : RegIdx) (value : Word)
  | rd (reg : RegIdx)
  | tick
  | reset
  | drvStart
  | drvStop
  | drvUpdate (f d : Word)
  | init
  | on (f : Word)
  | off
  | updateFreq (f : Word)
  | mute
  | unmute
  | play (x : Word)
  | pause
  | onTick
  | ticks (n : Nat)
  | onTicks (n : Nat)
  deriving DecidableEq, Repr

/-- `WR CMD, <word>` (R91). -/
def wrCmd (w : Word) : Event := .regWrite regCmd w

/-- The expansion of a line, one event per step (R90, R91). -/
def Line.expand : Line → List Event
  | .wr reg value => [.regWrite reg value]
  | .rd reg => [.regRead reg]
  | .tick => [.cycleComplete]
  | .reset => [.reset]
  | .drvStart => [wrCmd 0x1]
  | .drvStop => [wrCmd 0x2]
  | .drvUpdate f d => [.regWrite regArg0 f, .regWrite regArg1 d, wrCmd 0x3]
  | .init => [wrCmd 0x4]
  | .on f => [.regWrite regArg0 f, wrCmd 0x5]
  | .off => [wrCmd 0x6]
  | .updateFreq f => [.regWrite regArg0 f, wrCmd 0x7]
  | .mute => [wrCmd 0x8]
  | .unmute => [wrCmd 0x9]
  | .play x => [.regWrite regArg0 x, wrCmd 0xA]
  | .pause => [wrCmd 0xB]
  | .onTick => [wrCmd 0xC]
  | .ticks n => List.replicate n .cycleComplete
  | .onTicks n => List.replicate n (wrCmd 0xC)

/-- A script's inputs: the header's port levels hold for the whole script (R92). -/
def scriptInputs (pins : Pins) (lines : List Line) : List Input :=
  (lines.flatMap Line.expand).map fun e => { event := e, pins := pins }

/-- The start of a script: the reset block under the header's parameters and port levels (R92). -/
def scriptStart (p : Params) (pins : Pins) (lines : List Line) : State where
  block := Block.reset
  env := { params := p, pins := pins, inputs := scriptInputs pins lines }

end Sys2Proof.Machine
end

