-- ==== Sys2Proof/Machine/Step.lean ====
section
/-! DEFINITION. One step of the machine (spec/00_scope.md R13), and how a command word is placed as the step's next
input: the block fetches nothing, its host writes commands to CMD (spec/10_state.md R22). -/

namespace Sys2Proof.Machine

def step (s : State) : Host.Outcome State Fault Refusal := nextStep s

def State.withFetchWord (s : State) (nbits w : Nat) : State := requestCommand s nbits w

end Sys2Proof.Machine
end

