-- ==== Sys2Proof/Safety.lean ====
section
/-! DEFINITION. The terms claims are stated in: the safe run (no fault recorded, spec/60_exceptions.md R204), the
invariant of spec/10_state.md R46, and the conditions and results of the calculator in plain arithmetic. -/

namespace Sys2Proof.Machine

/-! ### Safe runs -/

/-- No fault since reset: `FAULT = 0` (R39). "The faulted state is never a good final state" (R204). -/
def noFault (s : State) : Bool := !s.block.host.fault

/-- `k` steps are taken and no state on the way, the last included, has a fault recorded. -/
def SafeRun : Nat → State → Prop
  | 0, s => noFault s = true
  | k + 1, s => noFault s = true ∧ ∃ t, step s = .next t ∧ SafeRun k t

/-! ### How a command ends -/

/-- The command ended with `return r` and left the block `b`: `RESULT <- r`, nothing else of `b` and no argument of the
step changed (R63, R201). -/
def State.ends (s : State) (b : Block) (r : Result) : State :=
  { s with block := { b with host := { b.host with result := r } } }

/-- The command ended with `raise Fault(c)` after the writes that `b` holds: `RESULT <- 3`, `FAULT <- 1`, and
`FAULT_CAUSE` if `FAULT` was 0 (R204). -/
def State.raises (s : State) (b : Block) (c : Fault) : State :=
  { s with block := { b with host := { b.host with
      result := .fault, fault := true,
      faultCause := if b.host.fault then b.host.faultCause else some c } } }

/-- The input `inp` was taken and the step left the block `b`: the other inputs stay pending in their order, the port
levels are the input's, the parameters stay (R70, R77). -/
def State.after (s : State) (inp : Input) (rest : List Input) (b : Block) : State :=
  { block := b, env := { params := s.env.params, pins := inp.pins, inputs := rest } }

/-! ### The calculator's conditions and results -/

/-- What an update with frequency `f` and duty `d` needs to end in `OK` (R105, R108): `f <= CLOCK_HZ`, `d <= 100`,
`f` not 0, and a prescaler value of at least 1, which is `CLOCK_HZ >= 2 × TICK_RATE` (R12, R106): the passing calculation
of R110. -/
def CalcReady (p : Params) (clk f d : Nat) : Prop :=
  f ≤ clk ∧ d ≤ 100 ∧ 1 ≤ f ∧ 2 * p.tickRate ≤ clk

/-- The three preload registers hold the formulas of R106, R107 and R109 for `f` and `d`, as exact numbers (R110). -/
def Preloaded (p : Params) (clk f d : Nat) (r : DriverState) : Prop :=
  r.pscPre.toNat = clk / p.tickRate - 1 ∧
  r.periodPre.toNat = clk / ((clk / p.tickRate - 1) * f) ∧
  r.pulsePre.toNat = (clk / ((clk / p.tickRate - 1) * f) * d + 50) / 100

/-- Everything of the applicator but the three preload registers is equal (R111). -/
def SameButPreload (r r' : DriverState) : Prop :=
  r'.run = r.run ∧ r'.pscAct = r.pscAct ∧ r'.periodAct = r.periodAct ∧ r'.pulseAct = r.pulseAct

/-- A tick makes no Tone Controller call: in `Uninitialized` (R170), and while playing when no step applies (R177). -/
def TickMakesNoCall (c : CadenceState) : Prop :=
  c.ceInit = false ∨ c.paused = false ∧
    (c.audible = true ∧ c.onTicks.toNat < c.tickCnt.toNat ∧ c.tickCnt.toNat ≤ c.offTicks.toNat ∨
     c.audible = false ∧ c.offTicks.toNat < c.tickCnt.toNat ∧ c.tickCnt.toNat ≤ c.onTicks.toNat)

/-! ### The invariant -/

/-- The invariant of R46, items (a) to (f), with the facts the items rest on: before INIT only the host group has been
written, only a bound channel runs (R113, R133), before the first PLAY the cadence group is at reset (R33), an
initialized Engine has a stored frequency and a prescaler value that update without fault (R166, R178), and a paused one
has its counter at 0 (R169, R171). -/
structure Inv (s : State) : Prop where
  /-- (a) -/
  duty : s.block.tone.toneDuty.toNat = 0 ∨ s.block.tone.toneDuty.toNat = s.env.params.defaultDuty
  /-- (b) -/
  clock : s.block.tone.tcInit = true → 0 < s.block.chan.clockHz.toNat
  /-- (c) -/
  engine : s.block.cad.ceInit = true → s.block.tone.tcInit = true
  /-- (d) -/
  pulse : s.block.drv.pulsePre.toNat ≤ s.block.drv.periodPre.toNat
  /-- (e) -/
  freq : s.block.tone.tcInit = true → s.block.tone.toneFreq.toNat ≤ s.block.chan.clockHz.toNat
  /-- (f) -/
  cause : s.block.host.fault = false → s.block.host.faultCause = none
  /-- Before INIT (R131, R139, R163). -/
  unbound : s.block.tone.tcInit = false →
    s.block.chan = Block.reset.chan ∧ s.block.tone = Block.reset.tone ∧ s.block.drv = Block.reset.drv
  /-- Before the first PLAY (R165, R169, R170). -/
  unplayed : s.block.cad.ceInit = false → s.block.cad = Block.reset.cad
  /-- After the first PLAY (R166). -/
  ready : s.block.cad.ceInit = true →
    CalcReady s.env.params s.block.chan.clockHz.toNat s.block.tone.toneFreq.toNat s.env.params.defaultDuty
  /-- "it stays at the 0 that PAUSE wrote" (R171, R184). -/
  halted : s.block.cad.paused = true → s.block.cad.tickCnt = 0

/-! ### Runs of ticks -/

/-- Every input of the list is a cycle-complete event. -/
def AllTicks (l : List Input) : Prop := ∀ inp ∈ l, inp.event = Event.cycleComplete

end Sys2Proof.Machine
end

