-- ==== Sys2Proof/Certificates/Slice0/Obligations.lean ====
section
/-! DEFINITION. The statements about the model, one per rule or group of rules of spec/, for the provers. A claim of this
file holds whether or not a fault was recorded before, which is more than the premise `FAULT = 0` of R204 asks
(log entry 6). -/

open Sys2Proof Sys2Proof.Machine

/-! ### Encoding -/

/-- R81, R86: the twelve command words and words beside them, written out. -/
def Obligations.CommandWordsDecode : Prop :=
  decode 0x00000001#32 = .ok .drvStart ∧ decode 0x00000002#32 = .ok .drvStop ∧
  decode 0x00000003#32 = .ok .drvUpdate ∧ decode 0x00000004#32 = .ok .init ∧
  decode 0x00000005#32 = .ok .on ∧ decode 0x00000006#32 = .ok .off ∧
  decode 0x00000007#32 = .ok .updateFreq ∧ decode 0x00000008#32 = .ok .mute ∧
  decode 0x00000009#32 = .ok .unmute ∧ decode 0x0000000A#32 = .ok .play ∧
  decode 0x0000000B#32 = .ok .pause ∧ decode 0x0000000C#32 = .ok .onTick ∧
  decode 0x00000000#32 = .error .opcodeZero ∧ decode 0x0000000D#32 = .error .opcodeUnassigned ∧
  decode 0x0000000F#32 = .error .opcodeUnassigned ∧ decode 0x00000015#32 = .error .reservedBits ∧
  decode 0x80000001#32 = .error .reservedBits

/-- R81: over ALL words, a word decodes to a row's command exactly when it is the row's word. -/
def Obligations.DecodeMatchesExactlyTheTable : Prop :=
  ∀ w : Word,
    (decode w = .ok .drvStart ↔ w = 0x1#32) ∧ (decode w = .ok .drvStop ↔ w = 0x2#32) ∧
    (decode w = .ok .drvUpdate ↔ w = 0x3#32) ∧ (decode w = .ok .init ↔ w = 0x4#32) ∧
    (decode w = .ok .on ↔ w = 0x5#32) ∧ (decode w = .ok .off ↔ w = 0x6#32) ∧
    (decode w = .ok .updateFreq ↔ w = 0x7#32) ∧ (decode w = .ok .mute ↔ w = 0x8#32) ∧
    (decode w = .ok .unmute ↔ w = 0x9#32) ∧ (decode w = .ok .play ↔ w = 0xA#32) ∧
    (decode w = .ok .pause ↔ w = 0xB#32) ∧ (decode w = .ok .onTick ↔ w = 0xC#32)

/-- R80, R81: decode and encode agree in both directions, over all commands and over all words. -/
def Obligations.DecodeAndEncodeAgree : Prop :=
  (∀ i : Instr, i.wellFormed = true → decode (encode i) = .ok i ∧ (fieldsOf (encode i)).wellFormed = true) ∧
  (∀ (w : Word) (i : Instr), decode w = .ok i → encode i = w) ∧
  (∀ w : Word, (fieldsOf w).wellFormed = true → ∃ i, encode i = w)

/-- R86, R205: a word is illegal exactly under the three conditions, and writing it to CMD changes nothing but the
fault record and `RESULT`. -/
def Obligations.IllegalWordFaults : Prop :=
  ∀ (s : State) (w : Word) (pins : Pins) (rest : List Input),
    s.env.inputs = ⟨.regWrite 0 w, pins⟩ :: rest →
    ((w.extractLsb' 4 28 ≠ 0 ∨ w.extractLsb' 0 4 = 0 ∨ 0xD ≤ (w.extractLsb' 0 4).toNat) ↔ ∀ i, decode w ≠ .ok i) ∧
    ((w.extractLsb' 4 28 ≠ 0 ∨ w.extractLsb' 0 4 = 0 ∨ 0xD ≤ (w.extractLsb' 0 4).toNat) →
      step s = .next (s.after ⟨.regWrite 0 w, pins⟩ rest (s.raises s.block .illegalCommand).block))

/-! ### Steps and the register port -/

/-- R63: a write to CMD of a word that decodes to `i` is the command `i`, run on the state in which that input was
taken. That `withFetchWord` places such a write, with the port levels as they are, is the model's choice and no rule of
the spec (log entry 3; entry 16 for the number of a table row). -/
def Obligations.StepRunsTheDecodedCommand : Prop :=
  (∀ (s : State) (w : Word) (i : Instr) (pins : Pins) (rest : List Input),
    s.env.inputs = ⟨.regWrite 0 w, pins⟩ :: rest → decode w = .ok i →
      step s = exec i { s with env := { s.env with pins := pins, inputs := rest } }) ∧
  (∀ (s : State) (w : Nat) (i : Instr), decodeTableWord 32 w = some i → step (s.withFetchWord 32 w) = exec i s)

/-- R70, R77, R200: every step answers a next state, takes exactly the first pending input, and leaves the parameters
and the other inputs as they are; with nothing requested nothing happens (R231; log entry 3). -/
def Obligations.StepTakesOneInputAndGoesOn : Prop :=
  ∀ s : State,
    (s.env.inputs = [] → step s = .next s) ∧
    (∀ (inp : Input) (rest : List Input), s.env.inputs = inp :: rest →
      ∃ b : Block, step s = .next (s.after inp rest b))

/-- R42, R61: what each index reads, and that a read changes no state and cannot fault. -/
def Obligations.RegisterReadContent : Prop :=
  (∀ b : Block,
    regRead b 0 = 0 ∧ regRead b 1 = b.host.arg0 ∧ regRead b 2 = b.host.arg1 ∧ regRead b 3 = statusWord b ∧
    regRead b 4 = b.chan.clockHz ∧ regRead b 5 = bindWord b ∧ regRead b 6 = b.tone.toneFreq ∧
    (regRead b 7).toNat = b.tone.toneDuty.toNat ∧ regRead b 8 = b.drv.pscPre ∧ regRead b 9 = b.drv.periodPre ∧
    regRead b 10 = b.drv.pulsePre ∧ regRead b 11 = b.cad.tickCnt ∧ regRead b 12 = b.cad.onTicks ∧
    regRead b 13 = b.cad.offTicks ∧ regRead b 14 = 0 ∧ regRead b 15 = 0) ∧
  (∀ (s : State) (i : RegIdx) (pins : Pins) (rest : List Input), s.env.inputs = ⟨.regRead i, pins⟩ :: rest →
    regRData s = some (regRead s.block i) ∧ step s = .next (s.after ⟨.regRead i, pins⟩ rest s.block))

/-- R43: the fields of STATUS, every bit of the word. -/
def Obligations.StatusLayout : Prop :=
  ∀ b : Block,
    (statusWord b).extractLsb' 0 2 =
      (match b.host.result with
        | .ok => 0#2 | .notInitialized => 1#2 | .invalidParameter => 2#2 | .fault => 3#2) ∧
    (statusWord b).getLsbD 2 = b.host.fault ∧
    (statusWord b).extractLsb' 3 4 =
      (match b.host.faultCause with
        | none => 0#4 | some .illegalCommand => 1#4 | some .illegalAccess => 2#4 | some .startWhileRunning => 3#4
        | some .divisorZero => 4#4 | some .distanceRange => 5#4 | some .clockZero => 6#4
        | some .initRepeated => 7#4) ∧
    (statusWord b).getLsbD 7 = false ∧ (statusWord b).getLsbD 8 = b.tone.tcInit ∧
    (statusWord b).getLsbD 9 = b.drv.run ∧ (statusWord b).getLsbD 10 = b.cad.ceInit ∧
    (statusWord b).getLsbD 11 = b.cad.audible ∧ (statusWord b).getLsbD 12 = b.cad.paused ∧
    (statusWord b).extractLsb' 13 19 = 0#19

/-- R44: the fields of BIND, every bit of the word. -/
def Obligations.BindLayout : Prop :=
  ∀ b : Block,
    (bindWord b).extractLsb' 0 8 = b.chan.timId ∧ (bindWord b).extractLsb' 8 3 = b.chan.chIdx ∧
    (bindWord b).getLsbD 11 = b.chan.chN ∧ (bindWord b).extractLsb' 12 20 = 0#20

/-- R62, R64, R65, R206: a write to ARG0 or ARG1 stores all 32 bits and does nothing else; a write to an index from 3
to 15 changes no content, leaves `RESULT` as it was and records the fault. -/
def Obligations.RegisterWrites : Prop :=
  ∀ (s : State) (v : Word) (pins : Pins) (rest : List Input),
    (s.env.inputs = ⟨.regWrite 1 v, pins⟩ :: rest →
      step s = .next (s.after ⟨.regWrite 1 v, pins⟩ rest
        { s.block with host := { s.block.host with arg0 := v } })) ∧
    (s.env.inputs = ⟨.regWrite 2 v, pins⟩ :: rest →
      step s = .next (s.after ⟨.regWrite 2 v, pins⟩ rest
        { s.block with host := { s.block.host with arg1 := v } })) ∧
    (∀ i : RegIdx, 3 ≤ i.toNat → s.env.inputs = ⟨.regWrite i v, pins⟩ :: rest →
      step s = .next (s.after ⟨.regWrite i v, pins⟩ rest
        { s.block with host := { s.block.host with
            fault := true,
            faultCause := if s.block.host.fault then s.block.host.faultCause else some .illegalAccess } }))

/-! ### Reset and what only reset clears -/

/-- R47, R230: the RESET event puts every element of the block at the table's value, and so does the state the machine
starts in. -/
def Obligations.ResetValues : Prop :=
  State.reset.block =
    { host := { arg0 := 0, arg1 := 0, result := .ok, fault := false, faultCause := none }
      chan := { timId := 0, chIdx := 0, chN := false, clockHz := 0 }
      tone := { tcInit := false, toneFreq := 0, toneDuty := 0 }
      drv := { run := false, pscPre := 0, periodPre := 0, pulsePre := 0,
               pscAct := none, periodAct := none, pulseAct := none }
      cad := { ceInit := false, tickCnt := 0, onTicks := 0, offTicks := 0, audible := false, paused := false } } ∧
  ∀ (s : State) (pins : Pins) (rest : List Input), s.env.inputs = ⟨.reset, pins⟩ :: rest →
    step s = .next (s.after ⟨.reset, pins⟩ rest State.reset.block)

/-- R204, R230: no step but a reset clears `TC_INIT`, `CE_INIT` or `FAULT`, or changes the cause of the first fault. -/
def Obligations.OnlyResetClears : Prop :=
  ∀ s t : State, step s = .next t →
    (∀ (inp : Input) (rest : List Input), s.env.inputs = inp :: rest → inp.event ≠ .reset) →
    (s.block.tone.tcInit = true → t.block.tone.tcInit = true) ∧
    (s.block.cad.ceInit = true → t.block.cad.ceInit = true) ∧
    (s.block.host.fault = true → t.block.host.fault = true ∧ t.block.host.faultCause = s.block.host.faultCause)

/-- R87, R204: from a state with `FAULT = 0`, a command ends with a fault recorded exactly when `RESULT` is 3, and then
a cause is latched; without one the record is untouched. -/
def Obligations.FaultRecordedWithResultThree : Prop :=
  ∀ (i : Instr) (s t : State), exec i s = .next t → s.block.host.fault = false →
    (t.block.host.fault = true ↔ t.block.host.result = .fault) ∧
    (t.block.host.fault = true → ∃ c, t.block.host.faultCause = some c) ∧
    (t.block.host.fault = false → t.block.host.faultCause = s.block.host.faultCause)

/-! ### The Driver -/

/-- R101, R113: DRV_START. -/
def Obligations.DrvStartCommand : Prop :=
  ∀ s : State,
    (s.block.tone.tcInit = false → exec .drvStart s = .next (s.ends s.block .notInitialized)) ∧
    (s.block.tone.tcInit = true → s.block.drv.run = true →
      exec .drvStart s = .next (s.raises s.block .startWhileRunning)) ∧
    (s.block.tone.tcInit = true → s.block.drv.run = false →
      exec .drvStart s = .next (s.ends { s.block with drv := { s.block.drv with
        run := true, pscAct := none, periodAct := none, pulseAct := none } } .ok))

/-- R102, R114: DRV_STOP, also when `RUN` was already 0. -/
def Obligations.DrvStopCommand : Prop :=
  ∀ s : State,
    (s.block.tone.tcInit = false → exec .drvStop s = .next (s.ends s.block .notInitialized)) ∧
    (s.block.tone.tcInit = true →
      exec .drvStop s = .next (s.ends { s.block with drv := { s.block.drv with run := false } } .ok))

/-- R105, R108, R112, R115: DRV_UPDATE, all four endings; the order of the two checks is that of the clauses. -/
def Obligations.DrvUpdateCommand : Prop :=
  ∀ s : State,
    let p := s.env.params
    let clk := s.block.chan.clockHz.toNat
    let f := s.block.host.arg0.toNat
    let d := s.block.host.arg1.toNat
    (s.block.tone.tcInit = false → exec .drvUpdate s = .next (s.ends s.block .notInitialized)) ∧
    (s.block.tone.tcInit = true → f > clk ∨ d > 100 →
      exec .drvUpdate s = .next (s.ends s.block .invalidParameter)) ∧
    (s.block.tone.tcInit = true → f ≤ clk → d ≤ 100 → f = 0 ∨ clk < 2 * p.tickRate →
      exec .drvUpdate s = .next (s.raises s.block .divisorZero)) ∧
    (s.block.tone.tcInit = true → CalcReady p clk f d →
      ∃ r, Preloaded p clk f d r ∧ SameButPreload s.block.drv r ∧
        exec .drvUpdate s = .next (s.ends { s.block with drv := r } .ok))

/-- R106: the prescaler value is the formula as a mathematical integer, with its three ranges. -/
def Obligations.PrescalerFormula : Prop :=
  ∀ (p : Params) (clk : Word),
    prescaler p clk.toNat = Int.floor ((clk.toNat : ℚ) / p.tickRate) - 1 ∧
    (clk.toNat < p.tickRate → prescaler p clk.toNat = -1) ∧
    (p.tickRate ≤ clk.toNat → clk.toNat < 2 * p.tickRate → prescaler p clk.toNat = 0) ∧
    (2 * p.tickRate ≤ clk.toNat → 1 ≤ prescaler p clk.toNat ∧ prescaler p clk.toNat ≤ (clk.toNat : Int) - 1 ∧
      prescaler p clk.toNat < 2 ^ 32)

/-- R107, R109, R110, R120: after a passing update the three registers hold the formulas as exact numbers, nothing
truncated, `pulse <= period <= CLOCK_HZ`, the prescaler value is at least 1,
the period is 0 exactly when `psc × f > CLOCK_HZ`, duty 0 gives pulse 0 and duty 100 gives the period. -/
def Obligations.PassingUpdateBounds : Prop :=
  ∀ s : State,
    let clk := s.block.chan.clockHz.toNat
    let f := s.block.host.arg0.toNat
    let d := s.block.host.arg1.toNat
    s.block.tone.tcInit = true → CalcReady s.env.params clk f d →
      ∃ t, exec .drvUpdate s = .next t ∧ t.block.host.result = .ok ∧
        Preloaded s.env.params clk f d t.block.drv ∧
        t.block.drv.pulsePre.toNat ≤ t.block.drv.periodPre.toNat ∧
        t.block.drv.periodPre.toNat ≤ clk ∧ 1 ≤ t.block.drv.pscPre.toNat ∧
        (t.block.drv.periodPre.toNat = 0 ↔ t.block.drv.pscPre.toNat * f > clk) ∧
        (d = 0 → t.block.drv.pulsePre = 0) ∧ (d = 100 → t.block.drv.pulsePre = t.block.drv.periodPre)

/-! ### The Tone Controller -/

/-- R132, R210, R211: INIT, its two faults in their priority (R213), and the binding of the sampled ports. -/
def Obligations.InitCommand : Prop :=
  ∀ s : State,
    (s.block.tone.tcInit = true → exec .init s = .next (s.raises s.block .initRepeated)) ∧
    (s.block.tone.tcInit = false → s.env.pins.clkHzIn = 0 →
      exec .init s = .next (s.raises s.block .clockZero)) ∧
    (s.block.tone.tcInit = false → s.env.pins.clkHzIn ≠ 0 →
      exec .init s = .next (s.ends { s.block with
        chan := { timId := s.env.pins.timSel, chIdx := s.env.pins.chSel, chN := s.env.pins.chNSel,
                  clockHz := s.env.pins.clkHzIn }
        tone := { s.block.tone with tcInit := true } } .ok))

/-- R133: ON, start first and update second, so a failing update leaves `RUN = 1` (90_conflicts.md C5). -/
def Obligations.OnCommand : Prop :=
  ∀ s : State,
    let p := s.env.params
    let clk := s.block.chan.clockHz.toNat
    let f := s.block.host.arg0.toNat
    let started := { s.block.drv with run := true, pscAct := none, periodAct := none, pulseAct := none }
    (s.block.tone.tcInit = false → exec .on s = .next (s.ends s.block .notInitialized)) ∧
    (s.block.tone.tcInit = true → s.block.drv.run = true →
      exec .on s = .next (s.raises s.block .startWhileRunning)) ∧
    (s.block.tone.tcInit = true → s.block.drv.run = false → f > clk →
      exec .on s = .next (s.ends { s.block with drv := started } .invalidParameter)) ∧
    (s.block.tone.tcInit = true → s.block.drv.run = false → f ≤ clk → f = 0 ∨ clk < 2 * p.tickRate →
      exec .on s = .next (s.raises { s.block with drv := started } .divisorZero)) ∧
    (s.block.tone.tcInit = true → s.block.drv.run = false → CalcReady p clk f p.defaultDuty →
      ∃ r, Preloaded p clk f p.defaultDuty r ∧ SameButPreload started r ∧
        exec .on s = .next (s.ends { s.block with
          drv := r
          tone := { s.block.tone with toneFreq := s.block.host.arg0,
                                      toneDuty := BitVec.ofNat 8 p.defaultDuty } } .ok))

/-- R134: OFF, also when the tone was already off. -/
def Obligations.OffCommand : Prop :=
  ∀ s : State,
    (s.block.tone.tcInit = false → exec .off s = .next (s.ends s.block .notInitialized)) ∧
    (s.block.tone.tcInit = true →
      exec .off s = .next (s.ends { s.block with drv := { s.block.drv with run := false } } .ok))

/-- R135: UPDATE_FREQ with the stored duty cycle; a stored duty above 100, which no run reaches (R46 (a)), fails the
validity check like a frequency above the clock. -/
def Obligations.UpdateFreqCommand : Prop :=
  ∀ s : State,
    let p := s.env.params
    let clk := s.block.chan.clockHz.toNat
    let f := s.block.host.arg0.toNat
    let d := s.block.tone.toneDuty.toNat
    (s.block.tone.tcInit = false → exec .updateFreq s = .next (s.ends s.block .notInitialized)) ∧
    (s.block.tone.tcInit = true → f > clk ∨ d > 100 →
      exec .updateFreq s = .next (s.ends s.block .invalidParameter)) ∧
    (s.block.tone.tcInit = true → f ≤ clk → d ≤ 100 → f = 0 ∨ clk < 2 * p.tickRate →
      exec .updateFreq s = .next (s.raises s.block .divisorZero)) ∧
    (s.block.tone.tcInit = true → CalcReady p clk f d →
      ∃ r, Preloaded p clk f d r ∧ SameButPreload s.block.drv r ∧
        exec .updateFreq s = .next (s.ends { s.block with
          drv := r, tone := { s.block.tone with toneFreq := s.block.host.arg0 } } .ok))

/-- R136: MUTE with the stored frequency and duty 0. -/
def Obligations.MuteCommand : Prop :=
  ∀ s : State,
    let p := s.env.params
    let clk := s.block.chan.clockHz.toNat
    let f := s.block.tone.toneFreq.toNat
    (s.block.tone.tcInit = false → exec .mute s = .next (s.ends s.block .notInitialized)) ∧
    (s.block.tone.tcInit = true → f > clk → exec .mute s = .next (s.ends s.block .invalidParameter)) ∧
    (s.block.tone.tcInit = true → f ≤ clk → f = 0 ∨ clk < 2 * p.tickRate →
      exec .mute s = .next (s.raises s.block .divisorZero)) ∧
    (s.block.tone.tcInit = true → CalcReady p clk f 0 →
      ∃ r, Preloaded p clk f 0 r ∧ r.pulsePre = 0 ∧ SameButPreload s.block.drv r ∧
        exec .mute s = .next (s.ends { s.block with
          drv := r, tone := { s.block.tone with toneDuty := 0 } } .ok))

/-- R137: UNMUTE with the stored frequency and `DEFAULT_DUTY`. -/
def Obligations.UnmuteCommand : Prop :=
  ∀ s : State,
    let p := s.env.params
    let clk := s.block.chan.clockHz.toNat
    let f := s.block.tone.toneFreq.toNat
    (s.block.tone.tcInit = false → exec .unmute s = .next (s.ends s.block .notInitialized)) ∧
    (s.block.tone.tcInit = true → f > clk → exec .unmute s = .next (s.ends s.block .invalidParameter)) ∧
    (s.block.tone.tcInit = true → f ≤ clk → f = 0 ∨ clk < 2 * p.tickRate →
      exec .unmute s = .next (s.raises s.block .divisorZero)) ∧
    (s.block.tone.tcInit = true → CalcReady p clk f p.defaultDuty →
      ∃ r, Preloaded p clk f p.defaultDuty r ∧ SameButPreload s.block.drv r ∧
        exec .unmute s = .next (s.ends { s.block with
          drv := r, tone := { s.block.tone with toneDuty := BitVec.ofNat 8 p.defaultDuty } } .ok))

/-- R136: a second MUTE, and a second UNMUTE, changes nothing at all, whatever the first one ended with. -/
def Obligations.MuteIsIdempotent : Prop :=
  ∀ s t : State,
    (exec .mute s = .next t → exec .mute t = .next t) ∧ (exec .unmute s = .next t → exec .unmute t = .next t)

/-- R138: MUTE then UNMUTE ends at the calculator's result for `(TONE_FREQ, DEFAULT_DUTY)`, whatever the preload
registers and the duty were before. The invariant gives `TONE_FREQ <= CLOCK_HZ` (R46 (e)). -/
def Obligations.MuteThenUnmuteRestores : Prop :=
  ∀ s : State, Inv s → s.block.tone.tcInit = true → 1 ≤ s.block.tone.toneFreq.toNat →
    2 * s.env.params.tickRate ≤ s.block.chan.clockHz.toNat →
      ∃ t u, exec .mute s = .next t ∧ exec .unmute t = .next u ∧ u.block.host.result = .ok ∧
        Preloaded s.env.params s.block.chan.clockHz.toNat s.block.tone.toneFreq.toNat s.env.params.defaultDuty
          u.block.drv ∧
        u.block.tone.toneDuty.toNat = s.env.params.defaultDuty ∧ u.block.tone.toneFreq = s.block.tone.toneFreq ∧
        u.block.drv.run = s.block.drv.run

/-- R139: after a successful ON, UPDATE_FREQ, MUTE or UNMUTE the preload registers equal the calculator's result for
`(TONE_FREQ, TONE_DUTY)`; after one that ends otherwise `ToneState` and the preload registers keep their values. -/
def Obligations.ToneStateMatchesPreload : Prop :=
  ∀ (i : Instr) (s t : State), i = .on ∨ i = .updateFreq ∨ i = .mute ∨ i = .unmute → exec i s = .next t →
    (t.block.host.result = .ok →
      Preloaded t.env.params t.block.chan.clockHz.toNat t.block.tone.toneFreq.toNat t.block.tone.toneDuty.toNat
        t.block.drv) ∧
    (t.block.host.result ≠ .ok →
      t.block.tone = s.block.tone ∧ t.block.drv.pscPre = s.block.drv.pscPre ∧
      t.block.drv.periodPre = s.block.drv.periodPre ∧ t.block.drv.pulsePre = s.block.drv.pulsePre)

/-! ### The distance -/

/-- R88: `value32` with `s = w[31]`, `e = w[30:23]`, `m = w[22:0]`, in rational arithmetic. -/
def Obligations.Value32IsBinary32 : Prop :=
  ∀ w : Word,
    let s := (w.extractLsb' 31 1).toNat
    let e := (w.extractLsb' 23 8).toNat
    let m := (w.extractLsb' 0 23).toNat
    (e = 255 → m ≠ 0 → value32 w = .nan) ∧
    (e = 255 → m = 0 → s = 0 → value32 w = .posInf) ∧
    (e = 255 → m = 0 → s = 1 → value32 w = .negInf) ∧
    (e = 0 → ∃ n : Int, value32 w = .finite n ∧ (n : ℚ) / 2 ^ 149 = (-1) ^ s * m * (2 : ℚ) ^ (-149 : ℤ)) ∧
    (e ≠ 0 → e ≠ 255 → ∃ n : Int, value32 w = .finite n ∧
      (n : ℚ) / 2 ^ 149 = (-1) ^ s * (2 ^ 23 + m) * (2 : ℚ) ^ ((e : ℤ) - 150))

/-- R162: the conversion is the floor of the exact rational product, and faults on NaN, the infinities, a negative
number (not `-0`) and a result above `2^32 - 1`. -/
def Obligations.DistanceIsTheExactFloor : Prop :=
  ∀ (p : Params) (w : Word),
    (value32 w = .nan ∨ value32 w = .posInf ∨ value32 w = .negInf → distToTicks p w = .error .distanceRange) ∧
    (∀ n : Int, value32 w = .finite n →
      let v : ℚ := (n : ℚ) / 2 ^ 149
      (v < 0 → distToTicks p w = .error .distanceRange) ∧
      (0 ≤ v → Int.floor (v * p.beepScale) > 2 ^ 32 - 1 → distToTicks p w = .error .distanceRange) ∧
      (0 ≤ v → Int.floor (v * p.beepScale) ≤ 2 ^ 32 - 1 →
        ∃ r : Word, distToTicks p w = .ok r ∧ (r.toNat : Int) = Int.floor (v * p.beepScale)))

/-! ### The Engine's commands -/

/-- R163, R164, R209: PLAY before INIT does nothing; a distance fault comes before any effect, also on a first call. -/
def Obligations.PlayGuardAndDistanceFault : Prop :=
  ∀ s : State,
    (s.block.tone.tcInit = false → exec .play s = .next (s.ends s.block .notInitialized)) ∧
    (∀ c, s.block.tone.tcInit = true → distToTicks s.env.params s.block.host.arg0 = .error c →
      exec .play s = .next (s.raises s.block .distanceRange))

/-- R165, R168: the first PLAY turns the tone on at the base frequency, mutes it, initializes the Engine and derives the
cadence. -/
def Obligations.FirstPlayStartsMuted : Prop :=
  ∀ (s : State) (off : Word),
    let p := s.env.params
    let clk := s.block.chan.clockHz.toNat
    s.block.tone.tcInit = true → s.block.cad.ceInit = false → s.block.drv.run = false →
    distToTicks p s.block.host.arg0 = .ok off → CalcReady p clk p.baseFreqHz p.defaultDuty →
      ∃ (r : DriverState) (tone : ToneState),
        Preloaded p clk p.baseFreqHz 0 r ∧ r.pulsePre = 0 ∧ r.run = true ∧
        r.pscAct = none ∧ r.periodAct = none ∧ r.pulseAct = none ∧
        tone.tcInit = true ∧ tone.toneFreq.toNat = p.baseFreqHz ∧ tone.toneDuty = 0 ∧
        exec .play s = .next (s.ends { s.block with
          drv := r, tone := tone
          cad := { ceInit := true, tickCnt := 0, onTicks := p.onTicksBase, offTicks := off,
                   audible := false, paused := false } } .ok)

/-- R166: a first PLAY whose ON does not succeed leaves the Engine uninitialized and keeps what ON had done; in the one
case left ON succeeds, and then its MUTE does not fail. -/
def Obligations.FirstPlayThatFails : Prop :=
  ∀ (s : State) (off : Word),
    let p := s.env.params
    let clk := s.block.chan.clockHz.toNat
    let started := { s.block.drv with run := true, pscAct := none, periodAct := none, pulseAct := none }
    s.block.tone.tcInit = true → s.block.cad.ceInit = false → distToTicks p s.block.host.arg0 = .ok off →
      (s.block.drv.run = true → exec .play s = .next (s.raises s.block .startWhileRunning)) ∧
      (s.block.drv.run = false → p.baseFreqHz > clk →
        exec .play s = .next (s.ends { s.block with drv := started } .invalidParameter)) ∧
      (s.block.drv.run = false → p.baseFreqHz ≤ clk → clk < 2 * p.tickRate →
        exec .play s = .next (s.raises { s.block with drv := started } .divisorZero)) ∧
      (s.block.drv.run = false → p.baseFreqHz ≤ clk → 2 * p.tickRate ≤ clk →
        ∃ t, exec .play s = .next t ∧ t.block.host.result = .ok ∧ t.block.cad.ceInit = true ∧
          t.block.tone.toneDuty = 0)

/-- R167: every successful PLAY writes the two bounds and clears `PAUSED`; a later PLAY writes nothing else: not the
counter, not `AUDIBLE`, not `RUN`, not the tone, so after an OFF it does not turn the tone back on. -/
def Obligations.LaterPlayWritesTheBounds : Prop :=
  ∀ (s : State) (off : Word), distToTicks s.env.params s.block.host.arg0 = .ok off →
    (s.block.tone.tcInit = true → s.block.cad.ceInit = true →
      exec .play s = .next (s.ends { s.block with cad := { s.block.cad with
        onTicks := s.env.params.onTicksBase, offTicks := off, paused := false } } .ok)) ∧
    (∀ t, exec .play s = .next t → t.block.host.result = .ok →
      t.block.cad.onTicks = s.env.params.onTicksBase ∧ t.block.cad.offTicks = off ∧ t.block.cad.paused = false)

/-- R169: PAUSE sets the flag, resets the counter and mutes at once, keeping `AUDIBLE`; it ends as its MUTE ends, and the
two writes stand however that is (R208). Only the first and the last clause are of states that a run
reaches (R46). -/
def Obligations.PauseCommand : Prop :=
  ∀ s : State,
    let p := s.env.params
    let clk := s.block.chan.clockHz.toNat
    let f := s.block.tone.toneFreq.toNat
    let halted := { s.block.cad with paused := true, tickCnt := 0 }
    (s.block.cad.ceInit = false → exec .pause s = .next (s.ends s.block .notInitialized)) ∧
    (s.block.cad.ceInit = true → s.block.tone.tcInit = false →
      exec .pause s = .next (s.ends { s.block with cad := halted } .notInitialized)) ∧
    (s.block.cad.ceInit = true → s.block.tone.tcInit = true → f > clk →
      exec .pause s = .next (s.ends { s.block with cad := halted } .invalidParameter)) ∧
    (s.block.cad.ceInit = true → s.block.tone.tcInit = true → f ≤ clk → f = 0 ∨ clk < 2 * p.tickRate →
      exec .pause s = .next (s.raises { s.block with cad := halted } .divisorZero)) ∧
    (s.block.cad.ceInit = true → s.block.tone.tcInit = true → CalcReady p clk f 0 →
      ∃ r, Preloaded p clk f 0 r ∧ r.pulsePre = 0 ∧ SameButPreload s.block.drv r ∧
        exec .pause s = .next (s.ends { s.block with
          drv := r, tone := { s.block.tone with toneDuty := 0 }, cad := halted } .ok))

/-! ### The tick transition -/

/-- R172 to R178: one ONTICK while playing, the six cases. Steps 1, 2 and 5 unmute, steps 3 and 4 mute, steps 1, 3 and 5
reset the counter, steps 2 and 4 and the no-step case increment it modulo `2^32`, and the no-step case makes no call: the
last two clauses, which the spec derives in R177 from the other steps. -/
def Obligations.PlayingTickSteps : Prop :=
  ∀ s : State,
    let p := s.env.params
    let clk := s.block.chan.clockHz.toNat
    let f := s.block.tone.toneFreq.toNat
    let c := s.block.cad
    let t := c.tickCnt.toNat
    let on := c.onTicks.toNat
    let off := c.offTicks.toNat
    let unmutes := fun (c' : CadenceState) =>
      ∃ r, Preloaded p clk f p.defaultDuty r ∧ SameButPreload s.block.drv r ∧
        exec .onTick s = .next (s.ends { s.block with
          drv := r, tone := { s.block.tone with toneDuty := BitVec.ofNat 8 p.defaultDuty }, cad := c' } .ok)
    let mutes := fun (c' : CadenceState) =>
      ∃ r, Preloaded p clk f 0 r ∧ SameButPreload s.block.drv r ∧
        exec .onTick s = .next (s.ends { s.block with
          drv := r, tone := { s.block.tone with toneDuty := 0 }, cad := c' } .ok)
    s.block.tone.tcInit = true → CalcReady p clk f p.defaultDuty → c.ceInit = true → c.paused = false →
      (t > on → t > off → unmutes { c with audible := true, tickCnt := 0 }) ∧
      (c.audible = true → t < on → unmutes { c with tickCnt := c.tickCnt + 1 }) ∧
      (c.audible = true → t = on → mutes { c with audible := false, tickCnt := 0 }) ∧
      (c.audible = false → t < off → mutes { c with tickCnt := c.tickCnt + 1 }) ∧
      (c.audible = false → t = off → unmutes { c with audible := true, tickCnt := 0 }) ∧
      (c.audible = true → on < t → t ≤ off →
        exec .onTick s = .next (s.ends { s.block with cad := { c with tickCnt := c.tickCnt + 1 } } .ok)) ∧
      (c.audible = false → off < t → t ≤ on →
        exec .onTick s = .next (s.ends { s.block with cad := { c with tickCnt := c.tickCnt + 1 } } .ok))

/-- R170, R171, R179: ONTICK in `Uninitialized` does nothing and returns OK; in `Paused` it is MUTE and nothing else,
whatever MUTE ends with; neither depends on `RUN`. -/
def Obligations.IdleAndPausedTicks : Prop :=
  ∀ s : State,
    (s.block.cad.ceInit = false → exec .onTick s = .next (s.ends s.block .ok)) ∧
    (s.block.cad.ceInit = true → s.block.cad.paused = true → exec .onTick s = exec .mute s)

/-- R208: a tick whose call of MUTE or UNMUTE faults keeps `AUDIBLE` as the step had written it and does not write the
counter. No run reaches such a state (R178), and the clauses are those of the pseudocode. -/
def Obligations.FaultingTickKeepsTheCounter : Prop :=
  ∀ s : State,
    let clk := s.block.chan.clockHz.toNat
    let f := s.block.tone.toneFreq.toNat
    let c := s.block.cad
    let t := c.tickCnt.toNat
    let on := c.onTicks.toNat
    let off := c.offTicks.toNat
    s.block.tone.tcInit = true → f ≤ clk → f = 0 ∨ clk < 2 * s.env.params.tickRate →
    c.ceInit = true → c.paused = false →
      ((t > on ∧ t > off ∨ c.audible = false ∧ t = off) →
        exec .onTick s = .next (s.raises { s.block with cad := { c with audible := true } } .divisorZero)) ∧
      (c.audible = true → t = on →
        exec .onTick s = .next (s.raises { s.block with cad := { c with audible := false } } .divisorZero)) ∧
      (c.audible = true ∧ t < on ∨ c.audible = false ∧ t < off →
        exec .onTick s = .next (s.raises s.block .divisorZero))

/-- R119, R180: the cycle-complete event is ignored while `RUN = 0`; while `RUN = 1` it is the reload of the three active
copies and then the transition of ONTICK, with `RESULT` left as it was. -/
def Obligations.CycleCompleteEvent : Prop :=
  ∀ (s : State) (pins : Pins) (rest : List Input), s.env.inputs = ⟨.cycleComplete, pins⟩ :: rest →
    (s.block.drv.run = false → step s = .next (s.after ⟨.cycleComplete, pins⟩ rest s.block)) ∧
    (s.block.drv.run = true →
      ∃ u, exec .onTick { s with block := { s.block with drv := { s.block.drv with
              pscAct := some s.block.drv.pscPre, periodAct := some s.block.drv.periodPre,
              pulseAct := some s.block.drv.pulsePre } } } = .next u ∧
        step s = .next (s.after ⟨.cycleComplete, pins⟩ rest
          { u.block with host := { u.block.host with result := s.block.host.result } }))

/-- R117, R118, R235: at an event with `RUN = 1` the active copies become what the preload registers held BEFORE the
event; any other step but a reset leaves them as they are, or is a start, which marks all three `unspecified`. -/
def Obligations.ActiveCopiesChangeAtReloadAndStart : Prop :=
  ∀ (s t : State) (inp : Input) (rest : List Input), s.env.inputs = inp :: rest → step s = .next t →
    (inp.event = .cycleComplete → s.block.drv.run = true →
      t.block.drv.pscAct = some s.block.drv.pscPre ∧ t.block.drv.periodAct = some s.block.drv.periodPre ∧
      t.block.drv.pulseAct = some s.block.drv.pulsePre ∧ t.block.drv.run = true) ∧
    (inp.event ≠ .reset → (inp.event = .cycleComplete → s.block.drv.run = false) →
      (t.block.drv.pscAct = s.block.drv.pscAct ∧ t.block.drv.periodAct = s.block.drv.periodAct ∧
        t.block.drv.pulseAct = s.block.drv.pulseAct ∧ (t.block.drv.run = true → s.block.drv.run = true)) ∨
      (s.block.drv.run = false ∧ t.block.drv.run = true ∧ t.block.drv.pscAct = none ∧
        t.block.drv.periodAct = none ∧ t.block.drv.pulseAct = none))

/-! ### The state machine -/

/-- R45: the four states as conditions on the flags. -/
def Obligations.PhasesAreFlagConditions : Prop :=
  ∀ c : CadenceState,
    (phaseOf c = .uninitialized ↔ c.ceInit = false) ∧
    (phaseOf c = .paused ↔ c.ceInit = true ∧ c.paused = true) ∧
    (phaseOf c = .playingAudible ↔ c.ceInit = true ∧ c.paused = false ∧ c.audible = true) ∧
    (phaseOf c = .playingMuted ↔ c.ceInit = true ∧ c.paused = false ∧ c.audible = false)

/-- R161: the rows of the transition table for PLAY, PAUSE and a tick (as ONTICK; the event runs the same transition,
CycleCompleteEvent), and that the nine other commands move no state. -/
def Obligations.StateMachineTransitions : Prop :=
  ∀ s t : State, Inv s →
    let c := s.block.cad
    let n := c.tickCnt.toNat
    let on := c.onTicks.toNat
    let off := c.offTicks.toNat
    let now := phaseOf t.block.cad
    (exec .play s = .next t →
      (t.block.host.result ≠ .ok → now = phaseOf c) ∧
      (t.block.host.result = .ok →
        (phaseOf c = .uninitialized → now = .playingMuted) ∧
        (phaseOf c = .playingAudible → now = .playingAudible) ∧
        (phaseOf c = .playingMuted → now = .playingMuted) ∧
        (phaseOf c = .paused → now = if c.audible then .playingAudible else .playingMuted))) ∧
    (exec .pause s = .next t →
      (phaseOf c = .uninitialized → now = .uninitialized ∧ t.block.host.result = .notInitialized) ∧
      (phaseOf c ≠ .uninitialized → now = .paused ∧ t.block.host.result = .ok)) ∧
    (exec .onTick s = .next t →
      (phaseOf c = .uninitialized → now = .uninitialized) ∧
      (phaseOf c = .paused → now = .paused) ∧
      (phaseOf c = .playingAudible → now = if n = on then .playingMuted else .playingAudible) ∧
      (phaseOf c = .playingMuted → now = if n = off ∨ (n > on ∧ n > off) then .playingAudible else .playingMuted)) ∧
    (∀ i, exec i s = .next t → i ≠ .play → i ≠ .pause → i ≠ .onTick → t.block.cad = c)

/-- R178: in a reachable state no tick fails, and no PAUSE of an initialized Engine: the calls of MUTE and UNMUTE return
OK. A PAUSE before the first PLAY returns NotInitialized (R169) and is not spoken of. -/
def Obligations.TicksNeverFail : Prop :=
  ∀ s t : State, Inv s →
    (exec .onTick s = .next t → t.block.host.result = .ok ∧ t.block.host.fault = s.block.host.fault) ∧
    (s.block.cad.ceInit = true → exec .pause s = .next t →
      t.block.host.result = .ok ∧ t.block.host.fault = s.block.host.fault) ∧
    (∀ (pins : Pins) (rest : List Input), s.env.inputs = ⟨.cycleComplete, pins⟩ :: rest → step s = .next t →
      t.block.host = s.block.host)

/-- R182: the decision of a tick is a function of the flags, the counter and the bounds: two reachable states that agree
on the cadence group and on `DEFAULT_DUTY` agree on the group after a tick, whatever the rest of them holds, and they agree
on the stored duty cycle whatever it was before, but for a tick that makes no call (`Uninitialized`, or no step applies),
which leaves it as it was. -/
def Obligations.TickDecisionIsAFunctionOfTheCadence : Prop :=
  ∀ s s' t t' : State, Inv s → Inv s' → s.block.cad = s'.block.cad →
    s.env.params.defaultDuty = s'.env.params.defaultDuty →
    exec .onTick s = .next t → exec .onTick s' = .next t' →
      t.block.cad = t'.block.cad ∧
      (TickMakesNoCall s.block.cad →
        t.block.tone.toneDuty = s.block.tone.toneDuty ∧ t'.block.tone.toneDuty = s'.block.tone.toneDuty) ∧
      (¬TickMakesNoCall s.block.cad → t.block.tone.toneDuty = t'.block.tone.toneDuty)

/-- R186: after any tick of a playing Engine in a reachable state the counter is at most one above the larger bound. -/
def Obligations.TickBoundsTheCounter : Prop :=
  ∀ s t : State, Inv s → s.block.cad.ceInit = true → s.block.cad.paused = false → exec .onTick s = .next t →
    t.block.cad.tickCnt.toNat ≤ max t.block.cad.onTicks.toNat t.block.cad.offTicks.toNat + 1

/-- R183, E6: from the entry into the muted sub-state with `OFF_TICKS = m`, `k <= m` cycle-complete events leave it muted
with the counter at `k`, and the `(m + 1)`-th flips to audible with the counter at 0. -/
def Obligations.MutedPhaseLength : Prop :=
  ∀ (s : State) (ticks rest : List Input) (k : Nat), Inv s →
    s.block.drv.run = true → s.block.cad.ceInit = true → s.block.cad.paused = false →
    s.block.cad.audible = false → s.block.cad.tickCnt = 0 →
    AllTicks ticks → ticks.length = k → s.env.inputs = ticks ++ rest → k ≤ s.block.cad.offTicks.toNat + 1 →
      ∃ t, core.run k s = .next t ∧ t.env.inputs = rest ∧
        (k ≤ s.block.cad.offTicks.toNat →
          t.block.cad = { s.block.cad with tickCnt := BitVec.ofNat 32 k } ∧
          (1 ≤ k → t.block.tone.toneDuty = 0 ∧ t.block.drv.pulsePre = 0)) ∧
        (k = s.block.cad.offTicks.toNat + 1 →
          t.block.cad = { s.block.cad with audible := true, tickCnt := 0 } ∧
          t.block.tone.toneDuty.toNat = s.env.params.defaultDuty)

/-- R183: one full cadence is `n + m + 2` ticks: from the entry into the muted sub-state that many cycle-complete events
lead back to it, with the audible phase entered at tick `m + 1`. -/
def Obligations.FullCadenceReturns : Prop :=
  ∀ (s : State) (ticks rest : List Input), Inv s →
    s.block.drv.run = true → s.block.cad.ceInit = true → s.block.cad.paused = false →
    s.block.cad.audible = false → s.block.cad.tickCnt = 0 →
    AllTicks ticks → ticks.length = s.block.cad.onTicks.toNat + s.block.cad.offTicks.toNat + 2 →
    s.env.inputs = ticks ++ rest →
      ∃ t u, core.run (s.block.cad.offTicks.toNat + 1) s = .next t ∧ t.block.cad.audible = true ∧
        core.run (s.block.cad.onTicks.toNat + 1) t = .next u ∧
        u.env.inputs = rest ∧ u.block.cad = s.block.cad ∧ u.block.tone.toneDuty = 0 ∧
        u.block.drv.pulsePre = 0 ∧ u.block.drv.run = true

/-- R184: in a reachable state a PLAY in `Paused` clears the flag and leaves counter, sub-state, tone and output alone; the
counter is 0, so the next tick runs step 2 or 3 if the pause began audible and step 4 or 5 if it began muted. -/
def Obligations.ResumeFromPause : Prop :=
  ∀ (s t u : State) (off : Word), Inv s → s.block.cad.ceInit = true → s.block.cad.paused = true →
    distToTicks s.env.params s.block.host.arg0 = .ok off → exec .play s = .next t → exec .onTick t = .next u →
      t.block.cad.paused = false ∧ t.block.cad.audible = s.block.cad.audible ∧ t.block.cad.tickCnt = 0 ∧
      t.block.tone = s.block.tone ∧ t.block.drv = s.block.drv ∧
      (s.block.cad.audible = true →
        u.block.cad.audible = decide (s.env.params.onTicksBase ≠ 0) ∧
        (u.block.cad.tickCnt = if s.env.params.onTicksBase = 0 then 0 else 1) ∧
        u.block.tone.toneDuty.toNat = if s.env.params.onTicksBase = 0 then 0 else s.env.params.defaultDuty) ∧
      (s.block.cad.audible = false →
        u.block.cad.audible = decide (off = 0) ∧ (u.block.cad.tickCnt = if off = 0 then 0 else 1) ∧
        u.block.tone.toneDuty.toNat = if off = 0 then s.env.params.defaultDuty else 0)

/-- R185: of two PLAYs with no tick between, only the second's distance is left: the state is the one that the second
alone would give. -/
def Obligations.LatestPlayWins : Prop :=
  ∀ (s t u v : State) (w off : Word), distToTicks s.env.params w = .ok off →
    exec .play s = .next t → t.block.host.result = .ok →
    exec .play { t with block := { t.block with host := { t.block.host with arg0 := w } } } = .next u →
    exec .play { s with block := { s.block with host := { s.block.host with arg0 := w } } } = .next v →
      u = v ∧ u.block.cad.offTicks = off ∧ u.block.host.result = .ok

/-! ### Results and frames over all commands -/

/-- R202: in a reachable state `NotInitialized` is returned by, and only by, the nine guarded commands before INIT
and PAUSE before the first PLAY, and then no state other than `RESULT` changes. -/
def Obligations.NotInitializedExactly : Prop :=
  ∀ (i : Instr) (s t : State), Inv s → exec i s = .next t →
    (t.block.host.result = .notInitialized ↔
      (i ≠ .init ∧ i ≠ .onTick ∧ i ≠ .pause ∧ s.block.tone.tcInit = false) ∨
      (i = .pause ∧ s.block.cad.ceInit = false)) ∧
    (t.block.host.result = .notInitialized →
      t = { s with block := { s.block with host := { s.block.host with result := .notInitialized } } })

/-- R203: in a reachable state `InvalidParameter` is returned by, and only by, a command whose update fails the
validity check, and nothing changes but `RESULT` and, in ON and a first PLAY, the start made before. -/
def Obligations.InvalidParameterExactly : Prop :=
  ∀ (i : Instr) (s t : State), Inv s → exec i s = .next t →
    let clk := s.block.chan.clockHz.toNat
    (t.block.host.result = .invalidParameter ↔
      s.block.tone.tcInit = true ∧
      ((i = .drvUpdate ∧ (s.block.host.arg0.toNat > clk ∨ s.block.host.arg1.toNat > 100)) ∨
       (i = .on ∧ s.block.drv.run = false ∧ s.block.host.arg0.toNat > clk) ∨
       (i = .updateFreq ∧ s.block.host.arg0.toNat > clk) ∨
       (i = .play ∧ s.block.cad.ceInit = false ∧ s.block.drv.run = false ∧ s.env.params.baseFreqHz > clk ∧
         ∃ off, distToTicks s.env.params s.block.host.arg0 = .ok off))) ∧
    (t.block.host.result = .invalidParameter →
      t.env = s.env ∧ t.block.chan = s.block.chan ∧ t.block.tone = s.block.tone ∧ t.block.cad = s.block.cad ∧
      t.block.host = { s.block.host with result := .invalidParameter } ∧
      t.block.drv.pscPre = s.block.drv.pscPre ∧ t.block.drv.periodPre = s.block.drv.periodPre ∧
      t.block.drv.pulsePre = s.block.drv.pulsePre ∧
      (i = .drvUpdate ∨ i = .updateFreq → t.block.drv = s.block.drv))

/-- R207: `StartWhileRunning` is raised by DRV_START, ON and a first PLAY while `RUN = 1`, and only then; `RESULT` is 3,
the fault is recorded, and no write was made before it. -/
def Obligations.StartWhileRunningExactly : Prop :=
  ∀ (i : Instr) (s t : State), exec i s = .next t → s.block.host.fault = false →
    (t.block.host.faultCause = some .startWhileRunning ∧ t.block.host.fault = true ↔
      s.block.tone.tcInit = true ∧ s.block.drv.run = true ∧
      (i = .drvStart ∨ i = .on ∨
        (i = .play ∧ s.block.cad.ceInit = false ∧
          ∃ off, distToTicks s.env.params s.block.host.arg0 = .ok off))) ∧
    (t.block.host.faultCause = some .startWhileRunning ∧ t.block.host.fault = true →
      t = s.raises s.block .startWhileRunning)

/-- R49, R48, R26, R132: no command changes the operands or any argument of the step; only INIT writes
`TimerChannelParams` and `TC_INIT`. -/
def Obligations.FrameOfOperandsAndBinding : Prop :=
  ∀ (i : Instr) (s t : State), exec i s = .next t →
    t.env = s.env ∧ t.block.host.arg0 = s.block.host.arg0 ∧ t.block.host.arg1 = s.block.host.arg1 ∧
    (i ≠ .init → t.block.chan = s.block.chan ∧ t.block.tone.tcInit = s.block.tone.tcInit)

/-- R30, R31, R115, R140: which commands may write `RUN`, the preload registers and `ToneState`; every other one leaves
them as they are. -/
def Obligations.FrameOfOutputAndTone : Prop :=
  ∀ (i : Instr) (s t : State), exec i s = .next t →
    (i ≠ .drvStart → i ≠ .drvStop → i ≠ .on → i ≠ .off → i ≠ .play → t.block.drv.run = s.block.drv.run) ∧
    (i = .drvStart ∨ i = .drvStop ∨ i = .init ∨ i = .off →
      t.block.drv.pscPre = s.block.drv.pscPre ∧ t.block.drv.periodPre = s.block.drv.periodPre ∧
      t.block.drv.pulsePre = s.block.drv.pulsePre) ∧
    (i ≠ .on → i ≠ .updateFreq → i ≠ .play → t.block.tone.toneFreq = s.block.tone.toneFreq) ∧
    (i = .drvStart ∨ i = .drvStop ∨ i = .drvUpdate ∨ i = .init ∨ i = .off ∨ i = .updateFreq →
      t.block.tone.toneDuty = s.block.tone.toneDuty) ∧
    (s.block.cad.ceInit = true → i = .play →
      t.block.drv = s.block.drv ∧ t.block.tone = s.block.tone) ∧
    (i ≠ .play → i ≠ .pause → i ≠ .onTick → t.block.cad = s.block.cad)

/-! ### The invariant -/

/-- R46: the invariant, with the facts that `Inv` adds to the items of R46, holds at reset. -/
def Obligations.ResetMeetsTheInvariant : Prop := Inv State.reset

/-- R46: every step keeps the invariant, with the facts that `Inv` adds to the items of R46 (among them that a paused Engine
has its counter at 0, R171, R184), whatever the input. -/
def Obligations.StepKeepsTheInvariant : Prop :=
  ∀ s t : State, Inv s → step s = .next t → Inv t

/-! ### Outputs and hazards -/

/-- R41, R116: `CC_IE` follows `RUN`, exactly one of the two enables is 1 while `RUN = 1`, chosen by `CH_N`, and all
three are 0 while `RUN = 0`; the preload values and the selection are driven as they stand. -/
def Obligations.OutputsFollowRun : Prop :=
  ∀ b : Block,
    (b.drv.run = false → (timerOutputs b).ccIe = false ∧ (timerOutputs b).pwmEnMain = false ∧
      (timerOutputs b).pwmEnComp = false) ∧
    (b.drv.run = true → (timerOutputs b).ccIe = true ∧ (timerOutputs b).pwmEnMain = !b.chan.chN ∧
      (timerOutputs b).pwmEnComp = b.chan.chN) ∧
    (timerOutputs b).timId = b.chan.timId ∧ (timerOutputs b).chIdx = b.chan.chIdx ∧
    (timerOutputs b).pscPre = b.drv.pscPre ∧ (timerOutputs b).periodPre = b.drv.periodPre ∧
    (timerOutputs b).pulsePre = b.drv.pulsePre

/-- R238: a successful MUTE or UNMUTE after a direct DRV_UPDATE that did not fault ends in the state it would have ended
in without the DRV_UPDATE. -/
def Obligations.DirectUpdateIsUndone : Prop :=
  ∀ (s t u v : State) (i : Instr), i = .mute ∨ i = .unmute → exec .drvUpdate s = .next t →
    t.block.host.result ≠ .fault → exec i t = .next u → exec i s = .next v →
    v.block.host.result = .ok → u = v

/-- R240: after OFF or DRV_STOP any number of cycle-complete events leaves the whole block as it is. -/
def Obligations.OffFreezesTheCadence : Prop :=
  ∀ (i : Instr) (s t : State) (ticks rest : List Input), i = .off ∨ i = .drvStop →
    s.block.tone.tcInit = true → exec i s = .next t → AllTicks ticks → t.env.inputs = ticks ++ rest →
      ∃ u, core.run ticks.length t = .next u ∧ u.block = t.block ∧ u.env.inputs = rest

/-- R74, R91: an operand write and a cycle-complete event commute: in either order they end in one state. -/
def Obligations.OperandWriteAndTickCommute : Prop :=
  ∀ (s s' : State) (i : RegIdx) (v : Word) (pins : Pins) (rest : List Input),
    i = 1 ∨ i = 2 → s' = { s with env := { s.env with
        inputs := ⟨.cycleComplete, pins⟩ :: ⟨.regWrite i v, pins⟩ :: rest } } →
    s.env.inputs = ⟨.regWrite i v, pins⟩ :: ⟨.cycleComplete, pins⟩ :: rest →
      ∃ t, core.run 2 s = .next t ∧ core.run 2 s' = .next t

/-- R178, R204: from a reachable state with no fault recorded, a run of cycle-complete events is a safe run: no tick
records a fault. -/
def Obligations.TickRunsAreSafe : Prop :=
  ∀ (s : State) (ticks rest : List Input), Inv s → noFault s = true → AllTicks ticks →
    s.env.inputs = ticks ++ rest → SafeRun ticks.length s
end

