-- ==== Sys2Proof/Laws/State.lean ====
section
/-! SUPPORT. What each named write of Machine/Ops.lean leaves in each group of the block, true by rfl. -/

namespace Sys2Proof.Machine

@[simp] theorem Block.withArg0_host (b : Block) (v : Word) : (b.withArg0 v).host = { b.host with arg0 := v } := rfl
@[simp] theorem Block.withArg0_chan (b : Block) (v : Word) : (b.withArg0 v).chan = b.chan := rfl
@[simp] theorem Block.withArg0_tone (b : Block) (v : Word) : (b.withArg0 v).tone = b.tone := rfl
@[simp] theorem Block.withArg0_drv (b : Block) (v : Word) : (b.withArg0 v).drv = b.drv := rfl
@[simp] theorem Block.withArg0_cad (b : Block) (v : Word) : (b.withArg0 v).cad = b.cad := rfl

@[simp] theorem Block.withArg1_host (b : Block) (v : Word) : (b.withArg1 v).host = { b.host with arg1 := v } := rfl
@[simp] theorem Block.withArg1_chan (b : Block) (v : Word) : (b.withArg1 v).chan = b.chan := rfl
@[simp] theorem Block.withArg1_tone (b : Block) (v : Word) : (b.withArg1 v).tone = b.tone := rfl
@[simp] theorem Block.withArg1_drv (b : Block) (v : Word) : (b.withArg1 v).drv = b.drv := rfl
@[simp] theorem Block.withArg1_cad (b : Block) (v : Word) : (b.withArg1 v).cad = b.cad := rfl

@[simp] theorem Block.withResult_host (b : Block) (r : Result) :
    (b.withResult r).host = { b.host with result := r } := rfl
@[simp] theorem Block.withResult_chan (b : Block) (r : Result) : (b.withResult r).chan = b.chan := rfl
@[simp] theorem Block.withResult_tone (b : Block) (r : Result) : (b.withResult r).tone = b.tone := rfl
@[simp] theorem Block.withResult_drv (b : Block) (r : Result) : (b.withResult r).drv = b.drv := rfl
@[simp] theorem Block.withResult_cad (b : Block) (r : Result) : (b.withResult r).cad = b.cad := rfl

@[simp] theorem Block.bindChannel_host (b : Block) (p : Pins) : (b.bindChannel p).host = b.host := rfl
@[simp] theorem Block.bindChannel_chan (b : Block) (p : Pins) :
    (b.bindChannel p).chan = { timId := p.timSel, chIdx := p.chSel, chN := p.chNSel, clockHz := p.clkHzIn } := rfl
@[simp] theorem Block.bindChannel_tone (b : Block) (p : Pins) :
    (b.bindChannel p).tone = { b.tone with tcInit := true } := rfl
@[simp] theorem Block.bindChannel_drv (b : Block) (p : Pins) : (b.bindChannel p).drv = b.drv := rfl
@[simp] theorem Block.bindChannel_cad (b : Block) (p : Pins) : (b.bindChannel p).cad = b.cad := rfl

@[simp] theorem Block.withToneFreq_host (b : Block) (f : Word) : (b.withToneFreq f).host = b.host := rfl
@[simp] theorem Block.withToneFreq_chan (b : Block) (f : Word) : (b.withToneFreq f).chan = b.chan := rfl
@[simp] theorem Block.withToneFreq_tone (b : Block) (f : Word) :
    (b.withToneFreq f).tone = { b.tone with toneFreq := f } := rfl
@[simp] theorem Block.withToneFreq_drv (b : Block) (f : Word) : (b.withToneFreq f).drv = b.drv := rfl
@[simp] theorem Block.withToneFreq_cad (b : Block) (f : Word) : (b.withToneFreq f).cad = b.cad := rfl

@[simp] theorem Block.withToneDuty_host (b : Block) (d : Byte) : (b.withToneDuty d).host = b.host := rfl
@[simp] theorem Block.withToneDuty_chan (b : Block) (d : Byte) : (b.withToneDuty d).chan = b.chan := rfl
@[simp] theorem Block.withToneDuty_tone (b : Block) (d : Byte) :
    (b.withToneDuty d).tone = { b.tone with toneDuty := d } := rfl
@[simp] theorem Block.withToneDuty_drv (b : Block) (d : Byte) : (b.withToneDuty d).drv = b.drv := rfl
@[simp] theorem Block.withToneDuty_cad (b : Block) (d : Byte) : (b.withToneDuty d).cad = b.cad := rfl

@[simp] theorem Block.startRun_host (b : Block) : (b.startRun).host = b.host := rfl
@[simp] theorem Block.startRun_chan (b : Block) : (b.startRun).chan = b.chan := rfl
@[simp] theorem Block.startRun_tone (b : Block) : (b.startRun).tone = b.tone := rfl
@[simp] theorem Block.startRun_drv (b : Block) :
    (b.startRun).drv = { b.drv with run := true, pscAct := none, periodAct := none, pulseAct := none } := rfl
@[simp] theorem Block.startRun_cad (b : Block) : (b.startRun).cad = b.cad := rfl

@[simp] theorem Block.stopRun_host (b : Block) : (b.stopRun).host = b.host := rfl
@[simp] theorem Block.stopRun_chan (b : Block) : (b.stopRun).chan = b.chan := rfl
@[simp] theorem Block.stopRun_tone (b : Block) : (b.stopRun).tone = b.tone := rfl
@[simp] theorem Block.stopRun_drv (b : Block) : (b.stopRun).drv = { b.drv with run := false } := rfl
@[simp] theorem Block.stopRun_cad (b : Block) : (b.stopRun).cad = b.cad := rfl

@[simp] theorem Block.withPreload_host (b : Block) (x y z : Word) : (b.withPreload x y z).host = b.host := rfl
@[simp] theorem Block.withPreload_chan (b : Block) (x y z : Word) : (b.withPreload x y z).chan = b.chan := rfl
@[simp] theorem Block.withPreload_tone (b : Block) (x y z : Word) : (b.withPreload x y z).tone = b.tone := rfl
@[simp] theorem Block.withPreload_drv (b : Block) (x y z : Word) :
    (b.withPreload x y z).drv = { b.drv with pscPre := x, periodPre := y, pulsePre := z } := rfl
@[simp] theorem Block.withPreload_cad (b : Block) (x y z : Word) : (b.withPreload x y z).cad = b.cad := rfl

@[simp] theorem Block.reload_host (b : Block) : (b.reload).host = b.host := rfl
@[simp] theorem Block.reload_chan (b : Block) : (b.reload).chan = b.chan := rfl
@[simp] theorem Block.reload_tone (b : Block) : (b.reload).tone = b.tone := rfl
@[simp] theorem Block.reload_drv (b : Block) :
    (b.reload).drv = { b.drv with pscAct := some b.drv.pscPre, periodAct := some b.drv.periodPre, pulseAct := some b.drv.pulsePre } := rfl
@[simp] theorem Block.reload_cad (b : Block) : (b.reload).cad = b.cad := rfl

@[simp] theorem Block.withAudible_host (b : Block) (a : Bool) : (b.withAudible a).host = b.host := rfl
@[simp] theorem Block.withAudible_chan (b : Block) (a : Bool) : (b.withAudible a).chan = b.chan := rfl
@[simp] theorem Block.withAudible_tone (b : Block) (a : Bool) : (b.withAudible a).tone = b.tone := rfl
@[simp] theorem Block.withAudible_drv (b : Block) (a : Bool) : (b.withAudible a).drv = b.drv := rfl
@[simp] theorem Block.withAudible_cad (b : Block) (a : Bool) :
    (b.withAudible a).cad = { b.cad with audible := a } := rfl

@[simp] theorem Block.withTickCnt_host (b : Block) (n : Word) : (b.withTickCnt n).host = b.host := rfl
@[simp] theorem Block.withTickCnt_chan (b : Block) (n : Word) : (b.withTickCnt n).chan = b.chan := rfl
@[simp] theorem Block.withTickCnt_tone (b : Block) (n : Word) : (b.withTickCnt n).tone = b.tone := rfl
@[simp] theorem Block.withTickCnt_drv (b : Block) (n : Word) : (b.withTickCnt n).drv = b.drv := rfl
@[simp] theorem Block.withTickCnt_cad (b : Block) (n : Word) :
    (b.withTickCnt n).cad = { b.cad with tickCnt := n } := rfl

@[simp] theorem Block.enterPause_host (b : Block) : (b.enterPause).host = b.host := rfl
@[simp] theorem Block.enterPause_chan (b : Block) : (b.enterPause).chan = b.chan := rfl
@[simp] theorem Block.enterPause_tone (b : Block) : (b.enterPause).tone = b.tone := rfl
@[simp] theorem Block.enterPause_drv (b : Block) : (b.enterPause).drv = b.drv := rfl
@[simp] theorem Block.enterPause_cad (b : Block) :
    (b.enterPause).cad = { b.cad with paused := true, tickCnt := 0 } := rfl

@[simp] theorem Block.startEngine_host (b : Block) : (b.startEngine).host = b.host := rfl
@[simp] theorem Block.startEngine_chan (b : Block) : (b.startEngine).chan = b.chan := rfl
@[simp] theorem Block.startEngine_tone (b : Block) : (b.startEngine).tone = b.tone := rfl
@[simp] theorem Block.startEngine_drv (b : Block) : (b.startEngine).drv = b.drv := rfl
@[simp] theorem Block.startEngine_cad (b : Block) :
    (b.startEngine).cad = { b.cad with audible := false, tickCnt := 0, ceInit := true } := rfl

@[simp] theorem Block.withBounds_host (b : Block) (x y : Word) : (b.withBounds x y).host = b.host := rfl
@[simp] theorem Block.withBounds_chan (b : Block) (x y : Word) : (b.withBounds x y).chan = b.chan := rfl
@[simp] theorem Block.withBounds_tone (b : Block) (x y : Word) : (b.withBounds x y).tone = b.tone := rfl
@[simp] theorem Block.withBounds_drv (b : Block) (x y : Word) : (b.withBounds x y).drv = b.drv := rfl
@[simp] theorem Block.withBounds_cad (b : Block) (x y : Word) :
    (b.withBounds x y).cad = { b.cad with onTicks := x, offTicks := y, paused := false } := rfl

@[simp] theorem Block.recordFault_host (b : Block) (c : Fault) :
    (b.recordFault c).host = { b.host with fault := true, faultCause := if b.host.fault then b.host.faultCause else some c } := rfl
@[simp] theorem Block.recordFault_chan (b : Block) (c : Fault) : (b.recordFault c).chan = b.chan := rfl
@[simp] theorem Block.recordFault_tone (b : Block) (c : Fault) : (b.recordFault c).tone = b.tone := rfl
@[simp] theorem Block.recordFault_drv (b : Block) (c : Fault) : (b.recordFault c).drv = b.drv := rfl
@[simp] theorem Block.recordFault_cad (b : Block) (c : Fault) : (b.recordFault c).cad = b.cad := rfl

@[simp] theorem State.onBlock_block (s : State) (w : Block → Block) : (s.onBlock w).block = w s.block := rfl
@[simp] theorem State.onBlock_env (s : State) (w : Block → Block) : (s.onBlock w).env = s.env := rfl

/-- Two blocks with the same five groups are the same block (R20). -/
theorem Block.ext_groups (b c : Block) (hh : b.host = c.host) (hc : b.chan = c.chan) (ht : b.tone = c.tone)
    (hd : b.drv = c.drv) (he : b.cad = c.cad) : b = c := by
  cases b; cases c; simp_all

end Sys2Proof.Machine
end

