-- ==== Sys2Proof/Laws/Ops.lean ====
section
/-! SUPPORT. What the shared operations of Machine/Ops.lean do, once each: how calls are chained, how a fault is recorded
and how a command ends. -/

namespace Sys2Proof.Machine

@[simp] theorem Ran.thenOk_ok (b : Block) (k : Block → Ran) : Ran.thenOk (b, .ok) k = k b := rfl
@[simp] theorem Ran.thenOk_notInitialized (b : Block) (k : Block → Ran) :
    Ran.thenOk (b, .notInitialized) k = (b, .notInitialized) := rfl
@[simp] theorem Ran.thenOk_invalidParameter (b : Block) (k : Block → Ran) :
    Ran.thenOk (b, .invalidParameter) k = (b, .invalidParameter) := rfl
@[simp] theorem Ran.thenOk_raised (b : Block) (c : Fault) (k : Block → Ran) :
    Ran.thenOk (b, .raised c) k = (b, .raised c) := rfl

@[simp] theorem Ran.onOk_ok (b : Block) (w : Block → Block) : Ran.onOk (b, .ok) w = (w b, .ok) := rfl
@[simp] theorem Ran.onOk_notInitialized (b : Block) (w : Block → Block) :
    Ran.onOk (b, .notInitialized) w = (b, .notInitialized) := rfl
@[simp] theorem Ran.onOk_invalidParameter (b : Block) (w : Block → Block) :
    Ran.onOk (b, .invalidParameter) w = (b, .invalidParameter) := rfl
@[simp] theorem Ran.onOk_raised (b : Block) (c : Fault) (w : Block → Block) :
    Ran.onOk (b, .raised c) w = (b, .raised c) := rfl

@[simp] theorem Ran.unlessRaised_ok (b : Block) (w : Block → Block) :
    Ran.unlessRaised (b, .ok) w = (w b, .ok) := rfl
@[simp] theorem Ran.unlessRaised_notInitialized (b : Block) (w : Block → Block) :
    Ran.unlessRaised (b, .notInitialized) w = (w b, .notInitialized) := rfl
@[simp] theorem Ran.unlessRaised_invalidParameter (b : Block) (w : Block → Block) :
    Ran.unlessRaised (b, .invalidParameter) w = (w b, .invalidParameter) := rfl
@[simp] theorem Ran.unlessRaised_raised (b : Block) (c : Fault) (w : Block → Block) :
    Ran.unlessRaised (b, .raised c) w = (b, .raised c) := rfl

@[simp] theorem Ran.asCommand_ok (b : Block) : Ran.asCommand (b, .ok) = b.withResult .ok := rfl
@[simp] theorem Ran.asCommand_notInitialized (b : Block) :
    Ran.asCommand (b, .notInitialized) = b.withResult .notInitialized := rfl
@[simp] theorem Ran.asCommand_invalidParameter (b : Block) :
    Ran.asCommand (b, .invalidParameter) = b.withResult .invalidParameter := rfl
@[simp] theorem Ran.asCommand_raised (b : Block) (c : Fault) :
    Ran.asCommand (b, .raised c) = (b.recordFault c).withResult .fault := rfl

@[simp] theorem Ran.asEvent_ok (b : Block) : Ran.asEvent (b, .ok) = b := rfl
@[simp] theorem Ran.asEvent_notInitialized (b : Block) : Ran.asEvent (b, .notInitialized) = b := rfl
@[simp] theorem Ran.asEvent_invalidParameter (b : Block) : Ran.asEvent (b, .invalidParameter) = b := rfl
@[simp] theorem Ran.asEvent_raised (b : Block) (c : Fault) : Ran.asEvent (b, .raised c) = b.recordFault c := rfl

/-- Ending a command writes only the host group. -/
theorem Ran.asCommand_groups (m : Ran) :
    m.asCommand.chan = m.1.chan ∧ m.asCommand.tone = m.1.tone ∧ m.asCommand.drv = m.1.drv ∧
      m.asCommand.cad = m.1.cad := by
  obtain ⟨b, _ | _ | _ | c⟩ := m <;> simp

/-- Ending a command leaves the operands as the operation left them. -/
theorem Ran.asCommand_operands (m : Ran) :
    m.asCommand.host.arg0 = m.1.host.arg0 ∧ m.asCommand.host.arg1 = m.1.host.arg1 := by
  obtain ⟨b, _ | _ | _ | c⟩ := m <;> simp

/-- `RESULT` after a command is the code of its ending (R201, R204). -/
theorem Ran.asCommand_result (m : Ran) : m.asCommand.host.result = m.2.result := by
  obtain ⟨b, _ | _ | _ | c⟩ := m <;> rfl

/-- A fault recorded before a command is still recorded after it, with the same cause (R204). -/
theorem Ran.asCommand_fault {m : Ran} (h : m.1.host.fault = true) :
    m.asCommand.host.fault = true ∧ m.asCommand.host.faultCause = m.1.host.faultCause := by
  obtain ⟨b, _ | _ | _ | c⟩ := m <;> simp_all

/-- A fault recorded before an event is still recorded after it, with the same cause (R204). -/
theorem Ran.asEvent_fault {m : Ran} (h : m.1.host.fault = true) :
    m.asEvent.host.fault = true ∧ m.asEvent.host.faultCause = m.1.host.faultCause := by
  obtain ⟨b, _ | _ | _ | c⟩ := m <;> simp_all

/-- Ending an event writes only the fault record. -/
theorem Ran.asEvent_groups (m : Ran) :
    m.asEvent.chan = m.1.chan ∧ m.asEvent.tone = m.1.tone ∧ m.asEvent.drv = m.1.drv ∧ m.asEvent.cad = m.1.cad ∧
      m.asEvent.host.result = m.1.host.result := by
  obtain ⟨b, _ | _ | _ | c⟩ := m <;> simp [Ran.asEvent, Ran.recorded]

theorem guarded_initialized {b : Block} (h : b.tone.tcInit = true) (k : Block → Ran) : guarded b k = k b := by
  simp [guarded, h]

theorem guarded_uninitialized {b : Block} (h : b.tone.tcInit = false) (k : Block → Ran) :
    guarded b k = (b, .notInitialized) := by
  simp [guarded, h]

/-- A command answers one next state: the block as the operation and its ending leave it, the arguments unchanged. -/
theorem command_eq_next {op : Block → Ran} {s t : State} (h : command op s = .next t) :
    t = { s with block := (op s.block).asCommand } := by
  simp only [command, Host.Outcome.next.injEq] at h
  exact h.symm

theorem command_block {op : Block → Ran} {s t : State} (h : command op s = .next t) :
    t.block = (op s.block).asCommand ∧ t.env = s.env := by
  simp [command_eq_next h]

end Sys2Proof.Machine
end

