-- ==== Sys2Proof/Laws/Driver.lean ====
section
/-! SUPPORT. The calculator in natural-number arithmetic, and what `drv_start` and `drv_update` do in each case. -/

namespace Sys2Proof.Machine

/-- The prescaler value is below 1 exactly when the clock is below twice the tick rate (R12, R106). -/
theorem prescaler_lt_one_iff (p : Params) (clk : Nat) : prescaler p clk < 1 ↔ clk < 2 * p.tickRate := by
  have h : clk / p.tickRate < 2 ↔ clk < 2 * p.tickRate := Nat.div_lt_iff_lt_mul p.tickRate_pos
  rw [← h, prescaler]
  omega

theorem prescaler_toNat (p : Params) (clk : Nat) : (prescaler p clk).toNat = clk / p.tickRate - 1 := by
  rw [prescaler]
  omega

theorem prescaler_fits (p : Params) (clk : Word) : (prescaler p clk.toNat).toNat < 2 ^ 32 := by
  have h : clk.toNat / p.tickRate ≤ clk.toNat := Nat.div_le_self _ _
  have := clk.isLt
  rw [prescaler_toNat]
  omega

/-- The period never exceeds the clock (R107). -/
theorem period_le (clk psc f : Nat) : period clk psc f ≤ clk := Nat.div_le_self _ _

/-- `pulse <= period` for a duty up to 100 (R110). -/
theorem pulse_le {per d : Nat} (h : d ≤ 100) : pulse per d ≤ per := by
  have hm : per * d ≤ per * 100 := Nat.mul_le_mul_left per h
  rw [pulse, Nat.div_le_iff_le_mul_add_pred (by decide)]
  omega

@[simp] theorem pulse_zero (per : Nat) : pulse per 0 = 0 := by simp [pulse]

theorem pulse_hundred (per : Nat) : pulse per 100 = per := by
  rw [pulse]
  omega

/-- The facts of R110 about a passing calculation: `pulse <= period <= CLOCK_HZ`, `1 <= psc < 2^32`, and `period > 0` if
and only if `psc × f <= CLOCK_HZ`. -/
theorem passing_calculation {p : Params} {clk : Word} {f d : Nat} (h : CalcReady p clk.toNat f d) :
    1 ≤ prescaler p clk.toNat ∧ prescaler p clk.toNat < 2 ^ 32 ∧
      (∀ psc : Nat, (psc : Int) = prescaler p clk.toNat →
        pulse (period clk.toNat psc f) d ≤ period clk.toNat psc f ∧ period clk.toNat psc f ≤ clk.toNat ∧
        (0 < period clk.toNat psc f ↔ psc * f ≤ clk.toNat)) := by
  obtain ⟨_, hd, hf, hclk⟩ := h
  have h1 : 1 ≤ prescaler p clk.toNat := by
    have := prescaler_lt_one_iff p clk.toNat
    omega
  have hfit := prescaler_fits p clk
  refine ⟨h1, by omega, fun psc hpsc => ⟨pulse_le hd, period_le .., ?_⟩⟩
  have hpos : 0 < psc * f := Nat.mul_pos (by omega) hf
  rw [period, Nat.div_pos_iff]
  exact ⟨And.right, fun hle => ⟨hpos, hle⟩⟩

/-- The three values a passing update writes, as words. -/
def calcPreload (p : Params) (f d : Nat) (b : Block) : Block :=
  let clk := b.chan.clockHz.toNat
  let psc := (prescaler p clk).toNat
  b.withPreload (BitVec.ofNat 32 psc) (BitVec.ofNat 32 (period clk psc f))
    (BitVec.ofNat 32 (pulse (period clk psc f) d))

/-- Nothing is truncated: the words hold the formulas of R106, R107, R109 (R110). -/
theorem calcPreload_preloaded (p : Params) (f : Nat) {d : Nat} (hd : d ≤ 100) (b : Block) :
    Preloaded p b.chan.clockHz.toNat f d (calcPreload p f d b).drv := by
  have hp := period_le b.chan.clockHz.toNat (prescaler p b.chan.clockHz.toNat).toNat f
  have hpu := pulse_le (per := period b.chan.clockHz.toNat (prescaler p b.chan.clockHz.toNat).toNat f) hd
  have hc := b.chan.clockHz.isLt
  have hps := prescaler_fits p b.chan.clockHz
  have hpn := prescaler_toNat p b.chan.clockHz.toNat
  refine ⟨?_, ?_, ?_⟩
  · have : b.chan.clockHz.toNat / p.tickRate - 1 < 2 ^ 32 := by rw [← hpn]; omega
    simpa [calcPreload, hpn] using Nat.mod_eq_of_lt this
  · have : period b.chan.clockHz.toNat (b.chan.clockHz.toNat / p.tickRate - 1) f < 2 ^ 32 := by
      rw [← hpn]; omega
    simpa [calcPreload, hpn, period] using Nat.mod_eq_of_lt this
  · have : pulse (period b.chan.clockHz.toNat (b.chan.clockHz.toNat / p.tickRate - 1) f) d < 2 ^ 32 := by
      rw [← hpn]; omega
    simpa [calcPreload, hpn, period, pulse] using Nat.mod_eq_of_lt this

theorem calcPreload_same (p : Params) (f d : Nat) (b : Block) : SameButPreload b.drv (calcPreload p f d b).drv := by
  simp [SameButPreload, calcPreload]

@[simp] theorem calcPreload_host (p : Params) (f d : Nat) (b : Block) : (calcPreload p f d b).host = b.host := rfl
@[simp] theorem calcPreload_chan (p : Params) (f d : Nat) (b : Block) : (calcPreload p f d b).chan = b.chan := rfl
@[simp] theorem calcPreload_tone (p : Params) (f d : Nat) (b : Block) : (calcPreload p f d b).tone = b.tone := rfl
@[simp] theorem calcPreload_cad (p : Params) (f d : Nat) (b : Block) : (calcPreload p f d b).cad = b.cad := rfl

/-! ### `drv_update` -/

theorem drvUpdate_invalid {p : Params} {f d : Nat} {b : Block} (h : f > b.chan.clockHz.toNat ∨ d > 100) :
    drvUpdate p f d b = (b, .invalidParameter) := by
  simp [drvUpdate, h]

theorem drvUpdate_divisorZero {p : Params} {f d : Nat} {b : Block} (hf : f ≤ b.chan.clockHz.toNat) (hd : d ≤ 100)
    (h : f = 0 ∨ b.chan.clockHz.toNat < 2 * p.tickRate) : drvUpdate p f d b = (b, .raised .divisorZero) := by
  have hv : ¬(f > b.chan.clockHz.toNat ∨ d > 100) := by omega
  simp only [drvUpdate, hv, if_false, prescaler_lt_one_iff, h.symm, if_true]

theorem drvUpdate_ok {p : Params} {f d : Nat} {b : Block} (h : CalcReady p b.chan.clockHz.toNat f d) :
    drvUpdate p f d b = (calcPreload p f d b, .ok) := by
  obtain ⟨h1, h2, h3, h4⟩ := h
  have hv : ¬(f > b.chan.clockHz.toNat ∨ d > 100) := by omega
  have hz : ¬(b.chan.clockHz.toNat < 2 * p.tickRate ∨ f = 0) := by omega
  simp only [drvUpdate, hv, if_false, prescaler_lt_one_iff, hz]
  rfl

/-- Everything `drv_update` can do (R112). -/
theorem drvUpdate_cases (p : Params) (f d : Nat) (b : Block) :
    (f > b.chan.clockHz.toNat ∨ d > 100) ∧ drvUpdate p f d b = (b, .invalidParameter) ∨
    (f ≤ b.chan.clockHz.toNat ∧ d ≤ 100 ∧ (f = 0 ∨ b.chan.clockHz.toNat < 2 * p.tickRate)) ∧
      drvUpdate p f d b = (b, .raised .divisorZero) ∨
    CalcReady p b.chan.clockHz.toNat f d ∧ drvUpdate p f d b = (calcPreload p f d b, .ok) := by
  by_cases hv : f > b.chan.clockHz.toNat ∨ d > 100
  · exact .inl ⟨hv, drvUpdate_invalid hv⟩
  · by_cases hz : f = 0 ∨ b.chan.clockHz.toNat < 2 * p.tickRate
    · exact .inr (.inl ⟨⟨by omega, by omega, hz⟩, drvUpdate_divisorZero (by omega) (by omega) hz⟩)
    · have hr : CalcReady p b.chan.clockHz.toNat f d := ⟨by omega, by omega, by omega, by omega⟩
      exact .inr (.inr ⟨hr, drvUpdate_ok hr⟩)

/-! ### `drv_start` -/

theorem drvStart_stopped {b : Block} (h : b.drv.run = false) : drvStart b = (b.startRun, .ok) := by
  simp [drvStart, h]

theorem drvStart_running {b : Block} (h : b.drv.run = true) : drvStart b = (b, .raised .startWhileRunning) := by
  simp [drvStart, h]

end Sys2Proof.Machine
end

