-- ==== Sys2Proof/Laws/Tone.lean ====
section
/-! SUPPORT. Everything the Tone Controller's operations can do, one lemma per operation, and their results when the
calculator is ready. -/

namespace Sys2Proof.Machine

/-- What MUTE and UNMUTE share: an update with the stored frequency and the duty stored on success (R136, R137). -/
def setDuty (p : Params) (d : Nat) (b : Block) : Ran :=
  guarded b fun b => (drvUpdate p b.tone.toneFreq.toNat d b).onOk fun b => b.withToneDuty (BitVec.ofNat 8 d)

theorem toneMute_eq (p : Params) (b : Block) : toneMute p b = setDuty p 0 b := rfl

theorem toneUnmute_eq (p : Params) (b : Block) : toneUnmute p b = setDuty p p.defaultDuty b := rfl

/-- Everything MUTE and UNMUTE can do. -/
theorem setDuty_cases (p : Params) (d : Nat) (b : Block) :
    b.tone.tcInit = false ∧ setDuty p d b = (b, .notInitialized) ∨
    b.tone.tcInit = true ∧
      ((b.tone.toneFreq.toNat > b.chan.clockHz.toNat ∨ d > 100) ∧ setDuty p d b = (b, .invalidParameter) ∨
       (b.tone.toneFreq.toNat ≤ b.chan.clockHz.toNat ∧ d ≤ 100 ∧
          (b.tone.toneFreq.toNat = 0 ∨ b.chan.clockHz.toNat < 2 * p.tickRate)) ∧
         setDuty p d b = (b, .raised .divisorZero) ∨
       CalcReady p b.chan.clockHz.toNat b.tone.toneFreq.toNat d ∧
         setDuty p d b = ((calcPreload p b.tone.toneFreq.toNat d b).withToneDuty (BitVec.ofNat 8 d), .ok)) := by
  cases ht : b.tone.tcInit with
  | false => exact .inl ⟨rfl, guarded_uninitialized ht _⟩
  | true =>
    refine .inr ⟨rfl, ?_⟩
    simp only [setDuty, guarded_initialized ht]
    obtain ⟨h, he⟩ | ⟨h, he⟩ | ⟨h, he⟩ := drvUpdate_cases p b.tone.toneFreq.toNat d b
    · exact .inl ⟨h, by simp [he]⟩
    · exact .inr (.inl ⟨h, by simp [he]⟩)
    · exact .inr (.inr ⟨h, by simp [he]⟩)

theorem setDuty_ok {p : Params} {d : Nat} {b : Block} (ht : b.tone.tcInit = true)
    (h : CalcReady p b.chan.clockHz.toNat b.tone.toneFreq.toNat d) :
    setDuty p d b = ((calcPreload p b.tone.toneFreq.toNat d b).withToneDuty (BitVec.ofNat 8 d), .ok) := by
  simp [setDuty, guarded_initialized ht, drvUpdate_ok h]

theorem setDuty_uninitialized {p : Params} {d : Nat} {b : Block} (ht : b.tone.tcInit = false) :
    setDuty p d b = (b, .notInitialized) :=
  guarded_uninitialized ht _

theorem setDuty_invalid {p : Params} {d : Nat} {b : Block} (ht : b.tone.tcInit = true)
    (h : b.tone.toneFreq.toNat > b.chan.clockHz.toNat ∨ d > 100) : setDuty p d b = (b, .invalidParameter) := by
  simp only [setDuty, guarded_initialized ht, drvUpdate_invalid h, Ran.onOk_invalidParameter]

theorem setDuty_divisorZero {p : Params} {d : Nat} {b : Block} (ht : b.tone.tcInit = true)
    (hf : b.tone.toneFreq.toNat ≤ b.chan.clockHz.toNat) (hd : d ≤ 100)
    (h : b.tone.toneFreq.toNat = 0 ∨ b.chan.clockHz.toNat < 2 * p.tickRate) :
    setDuty p d b = (b, .raised .divisorZero) := by
  simp only [setDuty, guarded_initialized ht, drvUpdate_divisorZero hf hd h, Ran.onOk_raised]

/-- MUTE and UNMUTE write nothing but the preload registers and the stored duty (R140). -/
theorem setDuty_frame (p : Params) (d : Nat) (b : Block) :
    (setDuty p d b).1.host = b.host ∧ (setDuty p d b).1.chan = b.chan ∧ (setDuty p d b).1.cad = b.cad ∧
      SameButPreload b.drv (setDuty p d b).1.drv ∧ (setDuty p d b).1.tone.tcInit = b.tone.tcInit ∧
      (setDuty p d b).1.tone.toneFreq = b.tone.toneFreq := by
  have hs := calcPreload_same p b.tone.toneFreq.toNat d b
  obtain ⟨_, h⟩ | ⟨_, ⟨_, h⟩ | ⟨_, h⟩ | ⟨_, h⟩⟩ := setDuty_cases p d b <;> rw [h] <;> simp [SameButPreload] at hs ⊢
  exact hs

/-- Everything ON can do (R133). -/
theorem toneOn_cases (p : Params) (f : Nat) (b : Block) :
    b.tone.tcInit = false ∧ toneOn p f b = (b, .notInitialized) ∨
    b.tone.tcInit = true ∧
      (b.drv.run = true ∧ toneOn p f b = (b, .raised .startWhileRunning) ∨
       b.drv.run = false ∧
        (f > b.chan.clockHz.toNat ∧ toneOn p f b = (b.startRun, .invalidParameter) ∨
         (f ≤ b.chan.clockHz.toNat ∧ (f = 0 ∨ b.chan.clockHz.toNat < 2 * p.tickRate)) ∧
           toneOn p f b = (b.startRun, .raised .divisorZero) ∨
         CalcReady p b.chan.clockHz.toNat f p.defaultDuty ∧
           toneOn p f b =
             (((calcPreload p f p.defaultDuty b.startRun).withToneFreq (BitVec.ofNat 32 f)).withToneDuty
               (BitVec.ofNat 8 p.defaultDuty), .ok))) := by
  have hd := p.defaultDuty_range.2
  cases ht : b.tone.tcInit with
  | false => exact .inl ⟨rfl, guarded_uninitialized ht _⟩
  | true =>
    refine .inr ⟨rfl, ?_⟩
    simp only [toneOn, guarded_initialized ht]
    cases hr : b.drv.run with
    | true => exact .inl ⟨rfl, by simp [drvStart_running hr]⟩
    | false =>
      refine .inr ⟨rfl, ?_⟩
      simp only [drvStart_stopped hr, Ran.thenOk_ok]
      obtain ⟨h, he⟩ | ⟨h, he⟩ | ⟨h, he⟩ := drvUpdate_cases p f p.defaultDuty b.startRun
      · exact .inl ⟨by simpa using h.resolve_right (by omega), by simp [he]⟩
      · exact .inr (.inl ⟨⟨by simpa using h.1, by simpa using h.2.2⟩, by simp [he]⟩)
      · exact .inr (.inr ⟨by simpa using h, by simp [he]⟩)

theorem toneOn_uninitialized {p : Params} {f : Nat} {b : Block} (ht : b.tone.tcInit = false) :
    toneOn p f b = (b, .notInitialized) :=
  guarded_uninitialized ht _

theorem toneUpdateFreq_uninitialized {p : Params} {f : Nat} {b : Block} (ht : b.tone.tcInit = false) :
    toneUpdateFreq p f b = (b, .notInitialized) :=
  guarded_uninitialized ht _

/-- Everything UPDATE_FREQ can do (R135). -/
theorem toneUpdateFreq_cases (p : Params) (f : Nat) (b : Block) :
    b.tone.tcInit = false ∧ toneUpdateFreq p f b = (b, .notInitialized) ∨
    b.tone.tcInit = true ∧
      ((f > b.chan.clockHz.toNat ∨ b.tone.toneDuty.toNat > 100) ∧
         toneUpdateFreq p f b = (b, .invalidParameter) ∨
       (f ≤ b.chan.clockHz.toNat ∧ b.tone.toneDuty.toNat ≤ 100 ∧
          (f = 0 ∨ b.chan.clockHz.toNat < 2 * p.tickRate)) ∧
         toneUpdateFreq p f b = (b, .raised .divisorZero) ∨
       CalcReady p b.chan.clockHz.toNat f b.tone.toneDuty.toNat ∧
         toneUpdateFreq p f b =
           ((calcPreload p f b.tone.toneDuty.toNat b).withToneFreq (BitVec.ofNat 32 f), .ok)) := by
  cases ht : b.tone.tcInit with
  | false => exact .inl ⟨rfl, guarded_uninitialized ht _⟩
  | true =>
    refine .inr ⟨rfl, ?_⟩
    simp only [toneUpdateFreq, guarded_initialized ht]
    obtain ⟨h, he⟩ | ⟨h, he⟩ | ⟨h, he⟩ := drvUpdate_cases p f b.tone.toneDuty.toNat b
    · exact .inl ⟨h, by simp [he]⟩
    · exact .inr (.inl ⟨h, by simp [he]⟩)
    · exact .inr (.inr ⟨h, by simp [he]⟩)

end Sys2Proof.Machine
end

