-- ==== Sys2Proof/Laws/Cadence.lean ====
section
/-! SUPPORT. When each case of the tick transition applies, and everything `ontick`, PLAY and PAUSE can do. -/

namespace Sys2Proof.Machine

/-! ### The cases of a tick -/

theorem tickCase_recover_iff (c : CadenceState) :
    tickCase c = .recover ↔ c.tickCnt.toNat > c.onTicks.toNat ∧ c.tickCnt.toNat > c.offTicks.toNat := by
  simp only [tickCase]
  split_ifs <;> simp_all

theorem tickCase_stayAudible_iff (c : CadenceState) :
    tickCase c = .stayAudible ↔ c.audible = true ∧ c.tickCnt.toNat < c.onTicks.toNat := by
  simp only [tickCase]
  split_ifs with h1 h2 h3 h4 h5 <;> simp <;> first | assumption | omega | (intro ha; simp_all)

theorem tickCase_flipMuted_iff (c : CadenceState) :
    tickCase c = .flipMuted ↔ c.audible = true ∧ c.tickCnt.toNat = c.onTicks.toNat := by
  simp only [tickCase]
  split_ifs with h1 h2 h3 h4 h5 <;> simp <;> first | assumption | omega | (intro ha; simp_all)

theorem tickCase_stayMuted_iff (c : CadenceState) :
    tickCase c = .stayMuted ↔ c.audible = false ∧ c.tickCnt.toNat < c.offTicks.toNat := by
  simp only [tickCase]
  split_ifs with h1 h2 h3 h4 h5 <;> simp <;> first | assumption | omega | (intro ha; simp_all)

theorem tickCase_flipAudible_iff (c : CadenceState) :
    tickCase c = .flipAudible ↔ c.audible = false ∧ c.tickCnt.toNat = c.offTicks.toNat := by
  simp only [tickCase]
  split_ifs with h1 h2 h3 h4 h5 <;> simp <;> first | assumption | omega | (intro ha; simp_all)

theorem tickCase_noStep_iff (c : CadenceState) :
    tickCase c = .noStep ↔
      c.audible = true ∧ c.onTicks.toNat < c.tickCnt.toNat ∧ c.tickCnt.toNat ≤ c.offTicks.toNat ∨
      c.audible = false ∧ c.offTicks.toNat < c.tickCnt.toNat ∧ c.tickCnt.toNat ≤ c.onTicks.toNat := by
  cases ha : c.audible <;> simp only [tickCase, ha] <;> split_ifs <;> simp_all <;> omega

/-- The cadence group a playing tick leaves when its call does not fault (R172 to R177). -/
def tickedCadence (c : CadenceState) : CadenceState :=
  match tickCase c with
  | .recover => { c with audible := true, tickCnt := 0 }
  | .stayAudible => { c with tickCnt := c.tickCnt + 1 }
  | .flipMuted => { c with audible := false, tickCnt := 0 }
  | .stayMuted => { c with tickCnt := c.tickCnt + 1 }
  | .flipAudible => { c with audible := true, tickCnt := 0 }
  | .noStep => { c with tickCnt := c.tickCnt + 1 }

/-- The duty cycle that the call of a playing tick sets, if it makes one. -/
def tickedDuty (p : Params) (c : CadenceState) : Option Nat :=
  match tickCase c with
  | .recover | .stayAudible | .flipAudible => some p.defaultDuty
  | .flipMuted | .stayMuted => some 0
  | .noStep => none

/-- Once initialized and not paused, a tick sets no duty cycle exactly when it makes no call (R170, R177). -/
theorem tickedDuty_eq_none_iff {p : Params} {c : CadenceState} (hc : c.ceInit = true) (hp : c.paused = false) :
    tickedDuty p c = none ↔ TickMakesNoCall c := by
  have h : tickedDuty p c = none ↔ tickCase c = .noStep := by
    unfold tickedDuty
    split <;> simp_all
  rw [h, tickCase_noStep_iff]
  simp [TickMakesNoCall, hc, hp]

/-- The block a playing tick leaves when the calculator is ready. -/
def ticked (p : Params) (b : Block) : Block :=
  match tickedDuty p b.cad with
  | some d =>
    { (calcPreload p b.tone.toneFreq.toNat d b).withToneDuty (BitVec.ofNat 8 d) with cad := tickedCadence b.cad }
  | none => { b with cad := tickedCadence b.cad }

theorem calcReady_zero {p : Params} {clk f d : Nat} (h : CalcReady p clk f d) : CalcReady p clk f 0 :=
  ⟨h.1, by omega, h.2.2.1, h.2.2.2⟩

/-- A playing tick with a stored frequency that updates without fault ends in OK and leaves `ticked` (R178). -/
theorem ontick_playing {p : Params} {b : Block} (ht : b.tone.tcInit = true)
    (hr : CalcReady p b.chan.clockHz.toNat b.tone.toneFreq.toNat p.defaultDuty) (hc : b.cad.ceInit = true)
    (hp : b.cad.paused = false) : ontick p b = (ticked p b, .ok) := by
  have h0 := calcReady_zero hr
  have hu : ∀ c : CadenceState, setDuty p p.defaultDuty { b with cad := c } =
      ((calcPreload p b.tone.toneFreq.toNat p.defaultDuty { b with cad := c }).withToneDuty
        (BitVec.ofNat 8 p.defaultDuty), .ok) := fun c => setDuty_ok (b := { b with cad := c }) ht hr
  have hm : ∀ c : CadenceState, setDuty p 0 { b with cad := c } =
      ((calcPreload p b.tone.toneFreq.toNat 0 { b with cad := c }).withToneDuty (BitVec.ofNat 8 0), .ok) :=
    fun c => setDuty_ok (b := { b with cad := c }) ht h0
  simp only [ontick, hc, hp, toneMute_eq, toneUnmute_eq]
  cases hk : tickCase b.cad <;>
    simp only [ticked, tickedDuty, tickedCadence, hk, Block.withAudible, hu, hm, Ran.unlessRaised_ok] <;>
    rfl

/-- A tick in `Uninitialized` does nothing (R170). -/
theorem ontick_uninitialized {p : Params} {b : Block} (hc : b.cad.ceInit = false) : ontick p b = (b, .ok) := by
  simp [ontick, hc]

/-- A tick in `Paused` is MUTE (R171). -/
theorem ontick_paused {p : Params} {b : Block} (hc : b.cad.ceInit = true) (hp : b.cad.paused = true) :
    ontick p b = toneMute p b := by
  simp [ontick, hc, hp]

/-- A tick writes nothing but the preload registers, the stored duty and, of the cadence, the counter and `AUDIBLE`. -/
theorem ontick_frame (p : Params) (b : Block) :
    (ontick p b).1.host = b.host ∧ (ontick p b).1.chan = b.chan ∧ SameButPreload b.drv (ontick p b).1.drv ∧
      (ontick p b).1.tone.tcInit = b.tone.tcInit ∧ (ontick p b).1.tone.toneFreq = b.tone.toneFreq ∧
      (ontick p b).1.cad.ceInit = b.cad.ceInit ∧ (ontick p b).1.cad.paused = b.cad.paused ∧
      (ontick p b).1.cad.onTicks = b.cad.onTicks ∧ (ontick p b).1.cad.offTicks = b.cad.offTicks := by
  have hun : ∀ (m : Ran) (n : Word),
      (m.unlessRaised (·.withTickCnt n)).1 = m.1 ∨ (m.unlessRaised (·.withTickCnt n)).1 = m.1.withTickCnt n := by
    rintro ⟨b, _ | _ | _ | c⟩ n <;> simp
  have key : ∀ (d : Nat) (a : Bool) (n : Word) (m : Ran),
      m = setDuty p d (b.withAudible a) ∨ m = setDuty p d b →
      (m.unlessRaised (·.withTickCnt n)).1.host = b.host ∧ (m.unlessRaised (·.withTickCnt n)).1.chan = b.chan ∧
      SameButPreload b.drv (m.unlessRaised (·.withTickCnt n)).1.drv ∧
      (m.unlessRaised (·.withTickCnt n)).1.tone.tcInit = b.tone.tcInit ∧
      (m.unlessRaised (·.withTickCnt n)).1.tone.toneFreq = b.tone.toneFreq ∧
      (m.unlessRaised (·.withTickCnt n)).1.cad.ceInit = b.cad.ceInit ∧
      (m.unlessRaised (·.withTickCnt n)).1.cad.paused = b.cad.paused ∧
      (m.unlessRaised (·.withTickCnt n)).1.cad.onTicks = b.cad.onTicks ∧
      (m.unlessRaised (·.withTickCnt n)).1.cad.offTicks = b.cad.offTicks := by
    intro d a n m hm
    have hf : m.1.host = b.host ∧ m.1.chan = b.chan ∧ SameButPreload b.drv m.1.drv ∧
        m.1.tone.tcInit = b.tone.tcInit ∧ m.1.tone.toneFreq = b.tone.toneFreq ∧
        m.1.cad.ceInit = b.cad.ceInit ∧ m.1.cad.paused = b.cad.paused ∧
        m.1.cad.onTicks = b.cad.onTicks ∧ m.1.cad.offTicks = b.cad.offTicks := by
      rcases hm with rfl | rfl
      · obtain ⟨h1, h2, h3, h4, h5, h6⟩ := setDuty_frame p d (b.withAudible a)
        simp [h1, h2, h3, h5, h6] at h4 ⊢
        exact h4
      · obtain ⟨h1, h2, h3, h4, h5, h6⟩ := setDuty_frame p d b
        simp [h1, h2, h3, h4, h5, h6]
    rcases hun m n with h | h <;> rw [h] <;> simpa using hf
  have hsd := setDuty_frame p 0 b
  simp only [ontick, toneMute_eq, toneUnmute_eq]
  split_ifs with hc hp
  · simp [SameButPreload]
  · obtain ⟨h1, h2, h3, h4, h5, h6⟩ := hsd
    simp [h1, h2, h3, h4, h5, h6]
  · cases tickCase b.cad with
    | recover => exact key _ true _ _ (.inl rfl)
    | stayAudible => exact key _ true _ _ (.inr rfl)
    | flipMuted => exact key _ false _ _ (.inl rfl)
    | stayMuted => exact key _ true _ _ (.inr rfl)
    | flipAudible => exact key _ true _ _ (.inl rfl)
    | noStep => simp [SameButPreload]

/-! ### PAUSE and PLAY -/

theorem pause_uninitialized {p : Params} {b : Block} (hc : b.cad.ceInit = false) :
    pause p b = (b, .notInitialized) := by
  simp [pause, hc]

theorem pause_initialized {p : Params} {b : Block} (hc : b.cad.ceInit = true) :
    pause p b = setDuty p 0 b.enterPause := by
  simp [pause, hc, toneMute_eq]

/-- The block the first-call part of PLAY leaves when the calculator is ready (R165). -/
def playedFirst (p : Params) (b : Block) : Block :=
  ((calcPreload p p.baseFreqHz 0 ((calcPreload p p.baseFreqHz p.defaultDuty b.startRun).withToneFreq
    (BitVec.ofNat 32 p.baseFreqHz))).withToneDuty 0).startEngine

/-- Everything the first-call part of PLAY can do behind the guard (R165, R166): the MUTE after a successful ON does not
fail. -/
theorem playFirst_cases (p : Params) {b : Block} (ht : b.tone.tcInit = true) :
    b.drv.run = true ∧ playFirst p b = (b, .raised .startWhileRunning) ∨
    b.drv.run = false ∧
      (p.baseFreqHz > b.chan.clockHz.toNat ∧ playFirst p b = (b.startRun, .invalidParameter) ∨
       (p.baseFreqHz ≤ b.chan.clockHz.toNat ∧ b.chan.clockHz.toNat < 2 * p.tickRate) ∧
         playFirst p b = (b.startRun, .raised .divisorZero) ∨
       CalcReady p b.chan.clockHz.toNat p.baseFreqHz p.defaultDuty ∧
         playFirst p b = (playedFirst p b, .ok)) := by
  have hbase := p.baseFreqHz_pos
  obtain ⟨h, _⟩ | ⟨_, ⟨hr, he⟩ | ⟨hr, ⟨h, he⟩ | ⟨h, he⟩ | ⟨h, he⟩⟩⟩ := toneOn_cases p p.baseFreqHz b
  · rw [ht] at h; exact absurd h (by decide)
  · exact .inl ⟨hr, by simp [playFirst, he]⟩
  · exact .inr ⟨hr, .inl ⟨h, by simp [playFirst, he]⟩⟩
  · exact .inr ⟨hr, .inr (.inl ⟨⟨h.1, by omega⟩, by simp [playFirst, he]⟩)⟩
  · refine .inr ⟨hr, .inr (.inr ⟨h, ?_⟩)⟩
    have hlt : p.baseFreqHz < 2 ^ 32 := by
      have := b.chan.clockHz.isLt
      have := h.1
      omega
    have hmod : (BitVec.ofNat 32 p.baseFreqHz).toNat = p.baseFreqHz := by
      simpa using Nat.mod_eq_of_lt hlt
    have hm := setDuty_ok (p := p) (d := 0)
      (b := ((calcPreload p p.baseFreqHz p.defaultDuty b.startRun).withToneFreq
        (BitVec.ofNat 32 p.baseFreqHz)).withToneDuty (BitVec.ofNat 8 p.defaultDuty))
      (by simpa using ht) (by
        have := calcReady_zero h
        rw [← hmod] at this
        simpa using this)
    simp only [playFirst, he, Ran.thenOk_ok, toneMute_eq, hm, playedFirst]
    simp only [Block.withToneDuty, Block.withToneFreq, hmod]
    rfl

theorem play_uninitialized {p : Params} {w : Word} {b : Block} (ht : b.tone.tcInit = false) :
    play p w b = (b, .notInitialized) :=
  guarded_uninitialized ht _

/-- Everything PLAY can do (R168). -/
theorem play_cases (p : Params) (w : Word) (b : Block) :
    b.tone.tcInit = false ∧ play p w b = (b, .notInitialized) ∨
    b.tone.tcInit = true ∧
      ((∃ c, distToTicks p w = .error c ∧ play p w b = (b, .raised c)) ∨
       ∃ off, distToTicks p w = .ok off ∧
        (b.cad.ceInit = true ∧ play p w b = (b.withBounds p.onTicksBase off, .ok) ∨
         b.cad.ceInit = false ∧
          (b.drv.run = true ∧ play p w b = (b, .raised .startWhileRunning) ∨
           b.drv.run = false ∧
            (p.baseFreqHz > b.chan.clockHz.toNat ∧ play p w b = (b.startRun, .invalidParameter) ∨
             (p.baseFreqHz ≤ b.chan.clockHz.toNat ∧ b.chan.clockHz.toNat < 2 * p.tickRate) ∧
               play p w b = (b.startRun, .raised .divisorZero) ∨
             CalcReady p b.chan.clockHz.toNat p.baseFreqHz p.defaultDuty ∧
               play p w b = ((playedFirst p b).withBounds p.onTicksBase off, .ok))))) := by
  cases ht : b.tone.tcInit with
  | false => exact .inl ⟨rfl, guarded_uninitialized ht _⟩
  | true =>
    refine .inr ⟨rfl, ?_⟩
    simp only [play, guarded_initialized ht]
    cases hd : distToTicks p w with
    | error c => exact .inl ⟨c, rfl, rfl⟩
    | ok off =>
      refine .inr ⟨off, rfl, ?_⟩
      cases hc : b.cad.ceInit with
      | true => exact .inl ⟨rfl, by simp⟩
      | false =>
        refine .inr ⟨rfl, ?_⟩
        obtain ⟨hr, he⟩ | ⟨hr, ⟨h, he⟩ | ⟨h, he⟩ | ⟨h, he⟩⟩ := playFirst_cases p ht
        · exact .inl ⟨hr, by simp [he]⟩
        · exact .inr ⟨hr, .inl ⟨h, by simp [he]⟩⟩
        · exact .inr ⟨hr, .inr (.inl ⟨h, by simp [he]⟩)⟩
        · exact .inr ⟨hr, .inr (.inr ⟨h, by simp [he]⟩)⟩

/-- The distance conversion faults with one cause only (R162, R209). -/
theorem distToTicks_error {p : Params} {w : Word} {c : Fault} (h : distToTicks p w = .error c) :
    c = .distanceRange := by
  unfold distToTicks at h
  split at h
  · simpa using h.symm
  · simpa using h.symm
  · simpa using h.symm
  · split_ifs at h <;> simpa using h.symm

end Sys2Proof.Machine
end

