-- ==== Sys2Proof/Laws/Exec.lean ====
section
/-! SUPPORT. Every command as its operation on the block, and every step as a command, an event or a port access. -/

namespace Sys2Proof.Machine

/-- The operation on the block that a command runs. -/
def opOf (i : Instr) (p : Params) (pins : Pins) (b : Block) : Ran :=
  match i with
  | .drvStart => guarded b drvStart
  | .drvStop => guarded b drvStop
  | .drvUpdate => guarded b (drvUpdate p (freqOperand b) (dutyOperand b))
  | .init => toneInit pins b
  | .on => toneOn p (freqOperand b) b
  | .off => toneOff b
  | .updateFreq => toneUpdateFreq p (freqOperand b) b
  | .mute => toneMute p b
  | .unmute => toneUnmute p b
  | .play => play p (distanceOperand b) b
  | .pause => pause p b
  | .onTick => ontick p b

theorem exec_eq_command (i : Instr) (s : State) : exec i s = command (opOf i s.env.params s.env.pins) s := by
  cases i <;> rfl

/-- The next state of a command, in one form for all of them. -/
theorem exec_eq_next {i : Instr} {s t : State} (h : exec i s = .next t) :
    t = { s with block := (opOf i s.env.params s.env.pins s.block).asCommand } :=
  command_eq_next (exec_eq_command i s ▸ h)

/-! ### From what the operation does to what the command answers -/

theorem exec_ok {i : Instr} {s : State} {b : Block} (h : opOf i s.env.params s.env.pins s.block = (b, .ok)) :
    exec i s = .next (s.ends b .ok) := by
  rw [exec_eq_command, command, h]; rfl

theorem exec_notInitialized {i : Instr} {s : State} {b : Block}
    (h : opOf i s.env.params s.env.pins s.block = (b, .notInitialized)) :
    exec i s = .next (s.ends b .notInitialized) := by
  rw [exec_eq_command, command, h]; rfl

theorem exec_invalidParameter {i : Instr} {s : State} {b : Block}
    (h : opOf i s.env.params s.env.pins s.block = (b, .invalidParameter)) :
    exec i s = .next (s.ends b .invalidParameter) := by
  rw [exec_eq_command, command, h]; rfl

theorem exec_raises {i : Instr} {s : State} {b : Block} {c : Fault}
    (h : opOf i s.env.params s.env.pins s.block = (b, .raised c)) : exec i s = .next (s.raises b c) := by
  rw [exec_eq_command, command, h]; rfl

/-! ### The host group -/

theorem drvUpdate_host (p : Params) (f d : Nat) (b : Block) : (drvUpdate p f d b).1.host = b.host := by
  obtain ⟨_, h⟩ | ⟨_, h⟩ | ⟨_, h⟩ := drvUpdate_cases p f d b <;> simp [h]

/-- No operation writes the host group: the operands stay (R49), and the result and the fault record are written by the
command's ending alone. -/
theorem opOf_host (i : Instr) (p : Params) (pins : Pins) (b : Block) : (opOf i p pins b).1.host = b.host := by
  cases i with
  | drvStart => simp only [opOf, guarded, drvStart]; split_ifs <;> simp
  | drvStop => simp only [opOf, guarded, drvStop]; split_ifs <;> simp
  | drvUpdate => simp only [opOf, guarded]; split_ifs <;> simp [drvUpdate_host]
  | init => simp only [opOf, toneInit]; split_ifs <;> simp
  | on =>
    obtain ⟨_, h⟩ | ⟨_, ⟨_, h⟩ | ⟨_, ⟨_, h⟩ | ⟨_, h⟩ | ⟨_, h⟩⟩⟩ := toneOn_cases p (freqOperand b) b <;>
      simp [opOf, h]
  | off => simp only [opOf, toneOff, guarded, drvStop]; split_ifs <;> simp
  | updateFreq =>
    obtain ⟨_, h⟩ | ⟨_, ⟨_, h⟩ | ⟨_, h⟩ | ⟨_, h⟩⟩ := toneUpdateFreq_cases p (freqOperand b) b <;> simp [opOf, h]
  | mute => exact (setDuty_frame p 0 b).1
  | unmute => exact (setDuty_frame p p.defaultDuty b).1
  | play =>
    obtain ⟨_, h⟩ | ⟨_, ⟨_, _, h⟩ | ⟨_, _, ⟨_, h⟩ | ⟨_, ⟨_, h⟩ | ⟨_, ⟨_, h⟩ | ⟨_, h⟩ | ⟨_, h⟩⟩⟩⟩⟩ :=
      play_cases p (distanceOperand b) b <;> simp [opOf, h, playedFirst]
  | pause =>
    cases hc : b.cad.ceInit
    · simp [opOf, pause_uninitialized hc]
    · simp [opOf, pause_initialized hc, (setDuty_frame p 0 b.enterPause).1]
  | onTick => exact (ontick_frame p b).1

/-- The block a port write leaves, `RESULT` and the fault record included (R62 to R65). -/
def writtenBlock (p : Params) (pins : Pins) (i : RegIdx) (v : Word) (b : Block) : Block :=
  match i.toNat with
  | 0 =>
    match decode v with
    | .ok instr => (opOf instr p pins b).asCommand
    | .error _ => Ran.asCommand (b, .raised .illegalCommand)
  | 1 => b.withArg0 v
  | 2 => b.withArg1 v
  | _ => illegalAccess b

/-- The block a step's event leaves. -/
def respondedBlock (p : Params) (pins : Pins) (e : Event) (b : Block) : Block :=
  match e with
  | .regRead _ => b
  | .regWrite i v => writtenBlock p pins i v b
  | .cycleComplete => tickEvent p b
  | .reset => Block.reset

theorem respond_eq (e : Event) (s : State) :
    respond e s = .next { s with block := respondedBlock s.env.params s.env.pins e s.block } := by
  cases e with
  | regRead i => rfl
  | cycleComplete => rfl
  | reset => rfl
  | regWrite i v =>
    simp only [respond, regWrite, respondedBlock, writtenBlock, writeCmd]
    generalize i.toNat = n
    obtain _ | _ | _ | n := n
    · cases decode v with
      | ok instr => exact exec_eq_command instr s
      | error e => rfl
    · rfl
    · rfl
    · rfl

/-- A step that takes an input, in one form for all events. -/
theorem step_eq {s : State} {inp : Input} {rest : List Input} (h : s.env.inputs = inp :: rest) :
    step s = .next (s.after inp rest (respondedBlock s.env.params inp.pins inp.event s.block)) := by
  simp only [step, nextStep, h, respond_eq]
  rfl

theorem step_idle {s : State} (h : s.env.inputs = []) : step s = .next s := by
  simp [step, nextStep, h]

/-- A run of one step more. -/
theorem run_succ {k : Nat} {s t : State} (h : step s = .next t) : core.run (k + 1) s = core.run k t := by
  have hc : core.step s = .next t := h
  simp only [Host.Core.run, hc]

/-- A run whose first step takes `inp`. -/
theorem run_input {k : Nat} {s : State} {inp : Input} {rest : List Input} (h : s.env.inputs = inp :: rest) :
    core.run (k + 1) s =
      core.run k (s.after inp rest (respondedBlock s.env.params inp.pins inp.event s.block)) :=
  run_succ (step_eq h)

/-- No step: the state stays. -/
theorem run_zero {s t : State} (h : core.run 0 s = .next t) : t = s := by
  injection h with h
  exact h.symm

/-- Every state has a next state (R200). -/
theorem step_next (s : State) : ∃ t, step s = .next t := by
  cases hin : s.env.inputs with
  | nil => exact ⟨_, step_idle hin⟩
  | cons inp rest => exact ⟨_, step_eq hin⟩

/-- Two runs, one after the other. -/
theorem run_add {k n : Nat} {s t : State} (h : core.run k s = .next t) : core.run (k + n) s = core.run n t := by
  induction k generalizing s with
  | zero => rw [run_zero h, Nat.zero_add]
  | succ k ih =>
    obtain ⟨u, hu⟩ := step_next s
    rw [run_succ hu] at h
    rw [Nat.add_right_comm, run_succ hu]
    exact ih h

/-- What kinds of change a step can be: nothing, a command, an illegal command word, an operand write, an illegal access,
an accepted event, or a reset. Every claim about all steps is a claim about these. -/
theorem respondedBlock_cases (p : Params) (pins : Pins) (e : Event) (b : Block) :
    respondedBlock p pins e b = b ∧ (e = .cycleComplete → b.drv.run = false) ∧ e ≠ .reset ∨
    (∃ v instr, e = .regWrite 0 v ∧ decode v = .ok instr ∧
      respondedBlock p pins e b = (opOf instr p pins b).asCommand) ∨
    (∃ v, e = .regWrite 0 v ∧ respondedBlock p pins e b = (b.recordFault .illegalCommand).withResult .fault) ∨
    (∃ v, e = .regWrite 1 v ∧ respondedBlock p pins e b = b.withArg0 v) ∨
    (∃ v, e = .regWrite 2 v ∧ respondedBlock p pins e b = b.withArg1 v) ∨
    (∃ i v, e = .regWrite i v ∧ respondedBlock p pins e b = b.recordFault .illegalAccess) ∨
    (e = .cycleComplete ∧ b.drv.run = true ∧ respondedBlock p pins e b = (ontick p b.reload).asEvent) ∨
    (e = .reset ∧ respondedBlock p pins e b = Block.reset) := by
  cases e with
  | regRead i => exact .inl ⟨rfl, by simp, by simp⟩
  | reset => simp [respondedBlock]
  | cycleComplete =>
    cases hr : b.drv.run <;> simp [respondedBlock, tickEvent, hr]
  | regWrite i v =>
    simp only [respondedBlock, writtenBlock]
    split
    · next h0 =>
      have hi : i = 0 := BitVec.eq_of_toNat_eq h0
      subst hi
      cases hd : decode v with
      | ok instr => exact .inr (.inl ⟨v, instr, rfl, hd, rfl⟩)
      | error e => exact .inr (.inr (.inl ⟨v, rfl, rfl⟩))
    · next h1 =>
      have hi : i = 1 := BitVec.eq_of_toNat_eq h1
      subst hi
      exact .inr (.inr (.inr (.inl ⟨v, rfl, rfl⟩)))
    · next h2 =>
      have hi : i = 2 := BitVec.eq_of_toNat_eq h2
      subst hi
      exact .inr (.inr (.inr (.inr (.inl ⟨v, rfl, rfl⟩))))
    · exact .inr (.inr (.inr (.inr (.inr (.inl ⟨i, v, rfl, rfl⟩)))))

end Sys2Proof.Machine
end

