-- ==== Sys2Proof/Laws/Invariant.lean ====
section
/-! SUPPORT. What the invariant of Safety.lean gives a tick: it never fails, and its effect on the cadence is one function
of the cadence group. -/

namespace Sys2Proof.Machine

@[simp] theorem ticked_cad (p : Params) (b : Block) : (ticked p b).cad = tickedCadence b.cad := by
  unfold ticked
  split <;> rfl

theorem tickedCadence_flags (c : CadenceState) :
    (tickedCadence c).ceInit = c.ceInit ∧ (tickedCadence c).paused = c.paused ∧
      (tickedCadence c).onTicks = c.onTicks ∧ (tickedCadence c).offTicks = c.offTicks := by
  unfold tickedCadence
  split <;> simp

/-- In a state that meets the invariant the transition ends in OK (R178). -/
theorem ontick_of_inv {s : State} (hi : Inv s) :
    ∃ b, ontick s.env.params s.block = (b, .ok) ∧
      (s.block.cad.ceInit = false → b = s.block) ∧
      (s.block.cad.ceInit = true → s.block.cad.paused = true →
        b = (calcPreload s.env.params s.block.tone.toneFreq.toNat 0 s.block).withToneDuty 0) ∧
      (s.block.cad.ceInit = true → s.block.cad.paused = false → b = ticked s.env.params s.block) := by
  cases hc : s.block.cad.ceInit with
  | false => exact ⟨_, ontick_uninitialized hc, by simp⟩
  | true =>
    have ht := hi.engine hc
    have hr := hi.ready hc
    cases hp : s.block.cad.paused with
    | true => exact ⟨_, (ontick_paused hc hp).trans (setDuty_ok ht (calcReady_zero hr)), by simp⟩
    | false => exact ⟨_, ontick_playing ht hr hc hp, by simp⟩

/-- The cadence group after a tick of a state that meets the invariant (R170 to R177). -/
theorem ontick_cad_of_inv {s : State} (hi : Inv s) :
    (ontick s.env.params s.block).1.cad =
      if s.block.cad.ceInit = true ∧ s.block.cad.paused = false then tickedCadence s.block.cad else s.block.cad := by
  obtain ⟨b, hb, h1, h2, h3⟩ := ontick_of_inv hi
  rw [hb]
  cases hc : s.block.cad.ceInit <;> cases hp : s.block.cad.paused
  · simp [h1 hc]
  · simp [h1 hc]
  · simp [h3 hc hp]
  · simp [h2 hc hp]

/-- The reload keeps the invariant: only a bound channel runs, and no item speaks of the active copies (R117). -/
theorem inv_reload {s : State} (hi : Inv s) (hr : s.block.drv.run = true) :
    Inv { s with block := s.block.reload } := by
  have ht : s.block.tone.tcInit = true := by
    by_contra ht
    rw [(hi.unbound (by simpa using ht)).2.2] at hr
    exact absurd hr (by decide)
  obtain ⟨a, b, c, d, e, f, _, h, i, j⟩ := hi
  exact ⟨a, b, c, d, e, f, by simp [ht], h, i, j⟩

end Sys2Proof.Machine
end

