-- ==== Sys2Proof/Laws/PerInstr.lean ====
section
/-! SUPPORT. The family LegalWord, a property of every command as syntax: its word's fields are a legal `CMDW` (R80, R81,
R86). -/

namespace Sys2Proof.Laws.LegalWord

def Statement (i : Instr) : Prop :=
  i.wellFormed = true ∧ (fieldsOf (encode i)).opc = opcOf i ∧ (fieldsOf (encode i)).wellFormed = true

theorem drvStart : Statement .drvStart := by refine ⟨?_, ?_, ?_⟩ <;> decide
theorem drvStop : Statement .drvStop := by refine ⟨?_, ?_, ?_⟩ <;> decide
theorem drvUpdate : Statement .drvUpdate := by refine ⟨?_, ?_, ?_⟩ <;> decide
theorem init : Statement .init := by refine ⟨?_, ?_, ?_⟩ <;> decide
theorem on : Statement .on := by refine ⟨?_, ?_, ?_⟩ <;> decide
theorem off : Statement .off := by refine ⟨?_, ?_, ?_⟩ <;> decide
theorem updateFreq : Statement .updateFreq := by refine ⟨?_, ?_, ?_⟩ <;> decide
theorem mute : Statement .mute := by refine ⟨?_, ?_, ?_⟩ <;> decide
theorem unmute : Statement .unmute := by refine ⟨?_, ?_, ?_⟩ <;> decide
theorem play : Statement .play := by refine ⟨?_, ?_, ?_⟩ <;> decide
theorem pause : Statement .pause := by refine ⟨?_, ?_, ?_⟩ <;> decide
theorem onTick : Statement .onTick := by refine ⟨?_, ?_, ?_⟩ <;> decide

end Sys2Proof.Laws.LegalWord
end

