-- ==== Sys2Proof/Tests/Slice0.lean ====
section
/-! SUPPORT. The model's own tests: words and results taken from the tables and examples of spec/ (the row is named at each
test), and for every statement of Obligations.lean that has hypotheses a state that meets them. -/

namespace Sys2Proof.Tests

open Sys2Proof.Machine

/-! ### Ill-formed words (R80, R86) -/

theorem test_wellFormed_refuses_reservedBits : ({ opc := 5, rsv := 1 } : CmdWord).wellFormed = false := by decide
theorem test_wellFormed_refuses_opcodeZero : ({ opc := 0, rsv := 0 } : CmdWord).wellFormed = false := by decide
theorem test_wellFormed_refuses_opcodeUnassigned : ({ opc := 0xD, rsv := 0 } : CmdWord).wellFormed = false := by decide
theorem test_wellFormed_accepts_lastOpcode : ({ opc := 0xC, rsv := 0 } : CmdWord).wellFormed = true := by decide

/-! ### Every command's word, bit by bit from R80 and R81: `RSV` 28 bits, then `OPC` -/

theorem test_decode_drvStart : decode 0b00000000000000000000000000000001#32 = .ok .drvStart := by decide
theorem test_decode_drvStop : decode 0b00000000000000000000000000000010#32 = .ok .drvStop := by decide
theorem test_decode_drvUpdate : decode 0b00000000000000000000000000000011#32 = .ok .drvUpdate := by decide
theorem test_decode_init : decode 0b00000000000000000000000000000100#32 = .ok .init := by decide
theorem test_decode_on : decode 0b00000000000000000000000000000101#32 = .ok .on := by decide
theorem test_decode_off : decode 0b00000000000000000000000000000110#32 = .ok .off := by decide
theorem test_decode_updateFreq : decode 0b00000000000000000000000000000111#32 = .ok .updateFreq := by decide
theorem test_decode_mute : decode 0b00000000000000000000000000001000#32 = .ok .mute := by decide
theorem test_decode_unmute : decode 0b00000000000000000000000000001001#32 = .ok .unmute := by decide
theorem test_decode_play : decode 0b00000000000000000000000000001010#32 = .ok .play := by decide
theorem test_decode_pause : decode 0b00000000000000000000000000001011#32 = .ok .pause := by decide
theorem test_decode_onTick : decode 0b00000000000000000000000000001100#32 = .ok .onTick := by decide
theorem test_decode_refuses_opcodeE : decode 0x0000000E#32 = .error .opcodeUnassigned := by decide
theorem test_decode_refuses_reservedBit : decode 0x00000015#32 = .error .reservedBits := by decide

/-! ### The states of spec/95_test_vectors.md: the configuration EX1 and what its rows start from -/

def ex1 : Params :=
  { tickRate := 1000000, defaultDuty := 50, baseFreqHz := 1000, onTicksBase := 50, beepScale := 1200 }

def ports : Pins := { clkHzIn := 64000000, timSel := 1, chSel := 1, chNSel := false }

def under (p : Params) (b : Block) (inputs : List Input := []) : State :=
  { block := b, env := { params := p, pins := ports, inputs := inputs } }

/-- A block under EX1 with `ARG0` and `ARG1` written. -/
def given (b : Block) (arg0 arg1 : Word) : State :=
  under ex1 { b with host := { b.host with arg0 := arg0, arg1 := arg1 } }

def asks (b : Block) (e : Event) : State := under ex1 b [{ event := e, pins := ports }]

/-- "inited". -/
def inited : Block :=
  { Block.reset with
    chan := { timId := 1, chIdx := 1, chN := false, clockHz := 64000000 }
    tone := { tcInit := true, toneFreq := 0, toneDuty := 0 } }

/-- "inited" with another clock. -/
def clocked (clk : Word) : Block := { inited with chan := { inited.chan with clockHz := clk } }

/-- "after K5": ON 440. -/
def sounding : Block :=
  { inited with
    tone := { tcInit := true, toneFreq := 440, toneDuty := 50 }
    drv := { run := true, pscPre := 63, periodPre := 2308, pulsePre := 1154,
             pscAct := none, periodAct := none, pulseAct := none } }

/-- The start states of section 6: the Engine initialized, the tone muted at the base frequency. -/
def playing (audible paused : Bool) (cnt on off : Word) : Block :=
  { inited with
    tone := { tcInit := true, toneFreq := 1000, toneDuty := 0 }
    drv := { run := true, pscPre := 63, periodPre := 1015, pulsePre := 0,
             pscAct := none, periodAct := none, pulseAct := none }
    cad := { ceInit := true, tickCnt := cnt, onTicks := on, offTicks := off, audible := audible, paused := paused } }

/-- An Engine whose calls fault; no run reaches it (R178). -/
def broken (audible paused : Bool) (cnt : Word) : Block :=
  { playing audible paused cnt 50 120 with chan := { inited.chan with clockHz := 1999999 } }

def nextOf : Host.Outcome State Fault Refusal → Option State
  | .next t => some t
  | .fault _ => none
  | .refused _ => none

/-- Preload registers, stored tone and STATUS after a command. -/
def toneAfter (i : Instr) (s : State) : Option ((Word × Word × Word) × (Word × Byte) × Word) :=
  (nextOf (exec i s)).map fun t =>
    ((t.block.drv.pscPre, t.block.drv.periodPre, t.block.drv.pulsePre), (t.block.tone.toneFreq, t.block.tone.toneDuty),
      regRead t.block regStatus)

/-- `AUDIBLE`, `TICK_CNT`, the stored duty and the preloaded pulse after ONTICK. -/
def tickAfter (b : Block) : Option (Bool × Word × Byte × Word) :=
  (nextOf (exec .onTick (under ex1 b))).map fun t =>
    (t.block.cad.audible, t.block.cad.tickCnt, t.block.tone.toneDuty, t.block.drv.pulsePre)

/-! ### One or two rows of spec/95_test_vectors.md for every command -/

/-- K1. -/
theorem test_init_K1 :
    (nextOf (exec .init (under ex1 Block.reset))).map (fun t => (regRead t.block regBind, regRead t.block regStatus)) =
      some (0x00000101, 0x00000100) := by decide
/-- K2. -/
theorem test_init_K2 : toneAfter .init (under ex1 inited) = some ((0, 0, 0), (0, 0), 0x0000013F) := by decide
/-- K5. -/
theorem test_on_K5 : toneAfter .on (given inited 440 0) = some ((63, 2308, 1154), (440, 50), 0x00000300) := by decide
/-- K13: a failed ON leaves the channel started. -/
theorem test_on_K13 : toneAfter .on (given inited 64000001 0) = some ((0, 0, 0), (0, 0), 0x00000302) := by decide
/-- K6. -/
theorem test_off_K6 : toneAfter .off (under ex1 sounding) = some ((63, 2308, 1154), (440, 50), 0x00000100) := by decide
/-- K7. -/
theorem test_updateFreq_K7 :
    toneAfter .updateFreq (given sounding 880 0) = some ((63, 1154, 577), (880, 50), 0x00000300) := by decide
/-- K8. -/
theorem test_mute_K8 : toneAfter .mute (under ex1 sounding) = some ((63, 2308, 0), (440, 0), 0x00000300) := by decide
/-- K12. -/
theorem test_mute_K12 : toneAfter .mute (under ex1 inited) = some ((0, 0, 0), (0, 0), 0x00000127) := by decide
/-- K10's command on a muted tone at 1000 Hz, with the values of R137's example. -/
theorem test_unmute_R137 :
    toneAfter .unmute (under ex1 (playing false false 0 50 120)) =
      some ((63, 1015, 508), (1000, 50), 0x00000700) := by decide
/-- K17. -/
theorem test_drvStart_K17 : toneAfter .drvStart (under ex1 sounding) =
    some ((63, 2308, 1154), (440, 50), 0x0000031F) := by decide
/-- R113's example. -/
theorem test_drvStart_R113 : toneAfter .drvStart (under ex1 inited) = some ((0, 0, 0), (0, 0), 0x00000300) := by decide
/-- K18. -/
theorem test_drvStop_K18 : toneAfter .drvStop (under ex1 sounding) =
    some ((63, 2308, 1154), (440, 50), 0x00000100) := by decide
/-- UPD1: an exact half rounds up. -/
theorem test_drvUpdate_UPD1 : toneAfter .drvUpdate (given inited 1000 50) =
    some ((63, 1015, 508), (0, 0), 0x00000100) := by decide
/-- UPD37: the product needs 64 bits. -/
theorem test_drvUpdate_UPD37 :
    toneAfter .drvUpdate (under { ex1 with tickRate := 1, tickRate_pos := by decide }
      { clocked 4294967295 with host := { inited.host with arg0 := 4294967295, arg1 := 100 } }) =
      some ((4294967294, 0, 0), (0, 0), 0x00000100) := by decide
/-- K21. -/
theorem test_play_K21 : toneAfter .play (given inited 0x3DCCCCCD 0) =
    some ((63, 1015, 0), (1000, 0), 0x00000700) := by decide
/-- K22. -/
theorem test_play_K22 :
    (nextOf (exec .play (given (playing false false 30 50 120) 0x40200000 0))).map (fun t => t.block.cad) =
      some { ceInit := true, tickCnt := 30, onTicks := 50, offTicks := 3000, audible := false, paused := false } := by
  decide
/-- K26. -/
theorem test_pause_K26 :
    (nextOf (exec .pause (under ex1 (playing true false 9 50 120)))).map
      (fun t => (t.block.cad.tickCnt, t.block.drv.pulsePre, regRead t.block regStatus)) =
      some (0, 0, 0x00001F00) := by decide
/-- K25. -/
theorem test_pause_K25 : toneAfter .pause (under ex1 inited) = some ((0, 0, 0), (0, 0), 0x00000101) := by decide
/-- T3: the counter is 0 after a flip, not 1. -/
theorem test_onTick_T3 : tickAfter (playing false false 120 50 120) = some (true, 0, 50, 508) := by decide
/-- T22: no step applies, and the counter wraps. -/
theorem test_onTick_T22 : tickAfter (playing false false 4294967295 4294967295 5) = some (false, 0, 0, 0) := by decide

/-! ### The distance, the register port, the event and the script notation -/

/-- DIST1, DIST4, DIST9. -/
theorem test_distance_DIST1 : distToTicks ex1 0x3DCCCCCD = .ok 120 := by decide
theorem test_distance_DIST4 : distToTicks ex1 0x80000000 = .ok 0 := by decide
theorem test_distance_DIST9 : distToTicks ex1 0x3F333333 = .ok 839 := by decide
/-- DIST15, DIST16: the largest word that fits and the next one. -/
theorem test_distance_DIST15 : distToTicks ex1 0x4A5A740D = .ok 4294967100 := by decide
theorem test_distance_DIST16 : distToTicks ex1 0x4A5A740E = .error .distanceRange := by decide
/-- A9. -/
theorem test_bind_A9 :
    regRead { inited with chan := { timId := 3, chIdx := 2, chN := true, clockHz := 64000000 } } regBind =
      0x00000A03 := by decide
/-- A5. -/
theorem test_write_A5 :
    (nextOf (step (asks inited (.regWrite 4 1)))).map (fun t => (t.block.chan.clockHz, regRead t.block regStatus)) =
      some (64000000, 0x00000114) := by decide
/-- Program P2, line 124: the reload comes before the decision (R119). -/
theorem test_event_P2 :
    (nextOf (step (asks (playing false false 120 50 120) .cycleComplete))).map
      (fun t => (t.block.drv.pulseAct, t.block.drv.pulsePre, t.block.cad.audible)) =
      some (some 0, 508, true) := by decide
/-- R91: the expansion of `DRV_UPDATE 1000, 50`. -/
theorem test_script_R91 : (Line.drvUpdate 1000 50).expand = [.regWrite 1 1000, .regWrite 2 50, .regWrite 0 3] := by
  decide

/-! ### Witnesses: states that meet the hypotheses of the statements -/

theorem ready_ex1 : CalcReady ex1 64000000 1000 50 := by unfold CalcReady; decide

theorem inv_inited : Inv (under ex1 inited) :=
  ⟨by decide, by decide, by decide, by decide, by decide, by decide, by decide, by decide,
    fun h => absurd h (by decide), by decide⟩

theorem inv_reset : Inv (under ex1 Block.reset) :=
  ⟨by decide, by decide, by decide, by decide, by decide, by decide, by decide, by decide,
    fun h => absurd h (by decide), by decide⟩

theorem inv_clocked : Inv (under ex1 (clocked 999)) :=
  ⟨by decide, by decide, by decide, by decide, by decide, by decide, by decide, by decide,
    fun h => absurd h (by decide), by decide⟩

/-- No item of the invariant speaks of the operands. -/
theorem inv_given {b : Block} (h : Inv (under ex1 b)) (arg0 arg1 : Word) : Inv (given b arg0 arg1) :=
  ⟨h.duty, h.clock, h.engine, h.pulse, h.freq, h.cause, h.unbound, h.unplayed, h.ready, h.halted⟩

theorem inv_sounding : Inv (under ex1 sounding) :=
  ⟨by decide, by decide, by decide, by decide, by decide, by decide, by decide, by decide,
    fun h => absurd h (by decide), by decide⟩

theorem inv_playing (audible : Bool) (cnt on off : Word) (inputs : List Input) :
    Inv (under ex1 (playing audible false cnt on off) inputs) :=
  ⟨.inl rfl, fun _ => (by decide : 0 < (64000000#32).toNat), fun _ => rfl,
    (by decide : (0#32).toNat ≤ (1015#32).toNat), fun _ => (by decide : (1000#32).toNat ≤ (64000000#32).toNat),
    fun _ => rfl, (nomatch ·), (nomatch ·), fun _ => ready_ex1, (nomatch ·)⟩

theorem inv_halted (audible : Bool) (on off : Word) : Inv (under ex1 (playing audible true 0 on off)) :=
  ⟨.inl rfl, fun _ => (by decide : 0 < (64000000#32).toNat), fun _ => rfl,
    (by decide : (0#32).toNat ≤ (1015#32).toNat), fun _ => (by decide : (1000#32).toNat ≤ (64000000#32).toNat),
    fun _ => rfl, (nomatch ·), (nomatch ·), fun _ => ready_ex1, fun _ => rfl⟩

/-- An audible Engine after an UNMUTE. -/
def audibleNow (cnt : Word) : Block :=
  { playing true false cnt 50 120 with
    tone := { tcInit := true, toneFreq := 1000, toneDuty := 50 }
    drv := { run := true, pscPre := 63, periodPre := 1015, pulsePre := 508,
             pscAct := none, periodAct := none, pulseAct := none } }

theorem inv_audibleNow : Inv (under ex1 (audibleNow 9)) :=
  ⟨.inr rfl, by decide, by decide, by decide, by decide, by decide, by decide, by decide, fun _ => ready_ex1,
    by decide⟩

/-- The event of one PWM cycle. -/
def tick : Input := { event := .cycleComplete, pins := ports }

theorem witness_DecodeAndEncodeAgree :
    Instr.play.wellFormed = true ∧ decode 0x0000000A#32 = .ok .play ∧ (fieldsOf 0x0000000C#32).wellFormed = true := by
  decide

/-- Each of the three conditions at its edge: the lowest and the highest reserved bit, `OPC` 0, `OPC` 0xD. -/
theorem witness_IllegalWordFaults :
    (asks inited (.regWrite 0 0x11)).env.inputs = [⟨.regWrite 0 0x11, ports⟩] ∧
    (0x11#32).extractLsb' 4 28 ≠ 0 ∧ (0x80000001#32).extractLsb' 4 28 ≠ 0 ∧ (0x0#32).extractLsb' 0 4 = 0 ∧
    0xD ≤ ((0xD#32).extractLsb' 0 4).toNat := by decide

theorem witness_StepRunsTheDecodedCommand :
    (asks inited (.regWrite 0 0x1)).env.inputs = [⟨.regWrite 0 0x1, ports⟩] ∧ decode 0x1#32 = .ok .drvStart ∧
    decodeTableWord 32 0xC = some .onTick := by decide

theorem witness_StepTakesOneInputAndGoesOn :
    (under ex1 inited).env.inputs = [] ∧ (asks inited .reset).env.inputs = [⟨.reset, ports⟩] := by decide

theorem witness_RegisterReadContent : (asks inited (.regRead 15)).env.inputs = [⟨.regRead 15, ports⟩] := by decide

theorem witness_RegisterWrites :
    (asks inited (.regWrite 1 7)).env.inputs = [⟨.regWrite 1 7, ports⟩] ∧
    (asks inited (.regWrite 2 7)).env.inputs = [⟨.regWrite 2 7, ports⟩] ∧
    (asks inited (.regWrite 3 7)).env.inputs = [⟨.regWrite 3 7, ports⟩] ∧ 3 ≤ (3 : RegIdx).toNat ∧
    (asks inited (.regWrite 15 7)).env.inputs = [⟨.regWrite 15 7, ports⟩] ∧ 3 ≤ (15 : RegIdx).toNat := by decide

theorem witness_ResetValues : (asks sounding .reset).env.inputs = [⟨.reset, ports⟩] := by decide

/-- A faulted playing block on which an event is accepted. -/
def faulted : Block :=
  { playing false false 0 50 120 with
    host := { Block.reset.host with fault := true, faultCause := some .initRepeated } }

theorem witness_OnlyResetClears :
    ∃ t, step (asks faulted .cycleComplete) = .next t ∧
      (∀ (inp : Input) (rest : List Input), (asks faulted .cycleComplete).env.inputs = inp :: rest →
        inp.event ≠ .reset) ∧
      faulted.tone.tcInit = true ∧ faulted.cad.ceInit = true ∧ faulted.host.fault = true := by
  refine ⟨_, rfl, ?_, by decide⟩
  rintro inp rest ⟨⟩
  decide

/-- With a fault (a second INIT) and without one. -/
theorem witness_FaultRecordedWithResultThree :
    (∃ t, exec .init (under ex1 inited) = .next t ∧ inited.host.fault = false ∧ t.block.host.fault = true) ∧
    (∃ t, exec .drvStart (under ex1 inited) = .next t ∧ inited.host.fault = false ∧ t.block.host.fault = false) :=
  ⟨⟨_, rfl, by decide⟩, ⟨_, rfl, by decide⟩⟩

theorem witness_DrvStartCommand :
    Block.reset.tone.tcInit = false ∧ (sounding.tone.tcInit = true ∧ sounding.drv.run = true) ∧
    (inited.tone.tcInit = true ∧ inited.drv.run = false) := by decide

theorem witness_DrvStopCommand : Block.reset.tone.tcInit = false ∧ inited.tone.tcInit = true := by decide

/-- The edges of both checks: `f = CLOCK_HZ + 1`, `d = 101`, `f = 0`, a clock one below twice the tick rate, and
`f = CLOCK_HZ` with `d = 100` at exactly twice the tick rate. -/
theorem witness_DrvUpdateCommand :
    Block.reset.tone.tcInit = false ∧ inited.tone.tcInit = true ∧
    (given inited 64000001 50).block.host.arg0.toNat > inited.chan.clockHz.toNat ∧
    (given inited 1 101).block.host.arg1.toNat > 100 ∧
    ((given inited 0 100).block.host.arg0.toNat = 0 ∧ (given inited 0 100).block.host.arg1.toNat ≤ 100) ∧
    (clocked 1999999).chan.clockHz.toNat < 2 * ex1.tickRate ∧
    CalcReady ex1 (clocked 2000000).chan.clockHz.toNat (given inited 2000000 100).block.host.arg0.toNat 100 := by
  unfold CalcReady
  decide

theorem witness_PrescalerFormula :
    (999999#32).toNat < ex1.tickRate ∧
    (ex1.tickRate ≤ (1000000#32).toNat ∧ (1999999#32).toNat < 2 * ex1.tickRate) ∧
    2 * ex1.tickRate ≤ (2000000#32).toNat := by decide

/-- Duty 0 and duty 100. -/
theorem witness_PassingUpdateBounds :
    inited.tone.tcInit = true ∧
    CalcReady ex1 inited.chan.clockHz.toNat (given inited 1 0).block.host.arg0.toNat
      (given inited 1 0).block.host.arg1.toNat ∧
    CalcReady ex1 inited.chan.clockHz.toNat (given inited 64000000 100).block.host.arg0.toNat
      (given inited 64000000 100).block.host.arg1.toNat := by
  unfold CalcReady
  decide

def noClock : State := { under ex1 Block.reset with env := { params := ex1, pins := Pins.low, inputs := [] } }

theorem witness_InitCommand :
    inited.tone.tcInit = true ∧ (noClock.block.tone.tcInit = false ∧ noClock.env.pins.clkHzIn = 0) ∧
    (Block.reset.tone.tcInit = false ∧ (under ex1 Block.reset).env.pins.clkHzIn ≠ 0) := by decide

theorem witness_OnCommand :
    Block.reset.tone.tcInit = false ∧ (sounding.tone.tcInit = true ∧ sounding.drv.run = true) ∧
    (inited.tone.tcInit = true ∧ inited.drv.run = false) ∧
    (given inited 64000001 0).block.host.arg0.toNat > inited.chan.clockHz.toNat ∧
    (given inited 0 0).block.host.arg0.toNat = 0 ∧
    CalcReady ex1 inited.chan.clockHz.toNat (given inited 64000000 0).block.host.arg0.toNat ex1.defaultDuty := by
  unfold CalcReady
  decide

theorem witness_OffCommand : Block.reset.tone.tcInit = false ∧ sounding.tone.tcInit = true := by decide

theorem witness_UpdateFreqCommand :
    Block.reset.tone.tcInit = false ∧ sounding.tone.tcInit = true ∧
    (given sounding 64000001 0).block.host.arg0.toNat > sounding.chan.clockHz.toNat ∧
    ((given sounding 0 0).block.host.arg0.toNat = 0 ∧ sounding.tone.toneDuty.toNat ≤ 100) ∧
    CalcReady ex1 sounding.chan.clockHz.toNat (given sounding 1 0).block.host.arg0.toNat
      sounding.tone.toneDuty.toNat := by
  unfold CalcReady
  decide

/-- For MUTE and UNMUTE: not initialized; a stored frequency above the clock (no run reaches it); none stored yet; a
stored one. -/
theorem witness_MuteAndUnmuteCommands :
    Block.reset.tone.tcInit = false ∧
    ({ sounding with chan := (clocked 439).chan } : Block).tone.toneFreq.toNat > (clocked 439).chan.clockHz.toNat ∧
    (inited.tone.tcInit = true ∧ inited.tone.toneFreq.toNat ≤ inited.chan.clockHz.toNat ∧
      inited.tone.toneFreq.toNat = 0) ∧
    (sounding.tone.tcInit = true ∧
      CalcReady ex1 sounding.chan.clockHz.toNat sounding.tone.toneFreq.toNat 0 ∧
      CalcReady ex1 sounding.chan.clockHz.toNat sounding.tone.toneFreq.toNat ex1.defaultDuty) := by
  unfold CalcReady
  decide

theorem witness_MuteIsIdempotent :
    (∃ t, exec .mute (under ex1 sounding) = .next t) ∧ (∃ t, exec .unmute (under ex1 sounding) = .next t) :=
  ⟨⟨_, rfl⟩, ⟨_, rfl⟩⟩

theorem witness_MuteThenUnmuteRestores :
    Inv (under ex1 sounding) ∧ sounding.tone.tcInit = true ∧ 1 ≤ sounding.tone.toneFreq.toNat ∧
    2 * ex1.tickRate ≤ sounding.chan.clockHz.toNat := ⟨inv_sounding, by decide⟩

/-- An ON that succeeds and one that does not. -/
theorem witness_ToneStateMatchesPreload :
    (∃ t, exec .on (given inited 440 0) = .next t ∧ t.block.host.result = .ok) ∧
    (∃ t, exec .on (given inited 64000001 0) = .next t ∧ t.block.host.result ≠ .ok) :=
  ⟨⟨_, rfl, by decide⟩, ⟨_, rfl, by decide⟩⟩

/-- NaN, both infinities, the largest subnormal and the smallest normal number. -/
theorem witness_Value32IsBinary32 :
    ((0x7F800001#32).extractLsb' 23 8).toNat = 255 ∧ ((0x7F800001#32).extractLsb' 0 23).toNat ≠ 0 ∧
    ((0x7F800000#32).extractLsb' 0 23).toNat = 0 ∧ ((0x7F800000#32).extractLsb' 31 1).toNat = 0 ∧
    ((0xFF800000#32).extractLsb' 31 1).toNat = 1 ∧ ((0x007FFFFF#32).extractLsb' 23 8).toNat = 0 ∧
    ((0x00800000#32).extractLsb' 23 8).toNat = 1 ∧ ((0x7F7FFFFF#32).extractLsb' 23 8).toNat = 254 := by decide

/-- A NaN, the smallest negative number, `-0`, and with `BEEP_SCALE = 1200` the last number that fits and the next. -/
theorem witness_DistanceIsTheExactFloor :
    value32 0x7FC00000 = .nan ∧
    value32 0x80000001 = .finite (-1) ∧ ((-1 : Int) : ℚ) / 2 ^ 149 < 0 ∧
    value32 0x80000000 = .finite 0 ∧ (0 : ℚ) ≤ ((0 : Int) : ℚ) / 2 ^ 149 ∧
    value32 0x4A5A740D = .finite (14316557 * 2 ^ 147) ∧
    ⌊((14316557 * 2 ^ 147 : Int) : ℚ) / 2 ^ 149 * (1200 : Nat)⌋ ≤ 2 ^ 32 - 1 ∧
    value32 0x4A5A740E = .finite (14316558 * 2 ^ 147) ∧
    ⌊((14316558 * 2 ^ 147 : Int) : ℚ) / 2 ^ 149 * (1200 : Nat)⌋ > 2 ^ 32 - 1 := by
  refine ⟨by decide, by decide, by norm_num, by decide, by norm_num, by decide, ?_, by decide, ?_⟩
  · exact Int.floor_le_iff.2 (by norm_num)
  · exact Int.lt_floor_iff.2 (by norm_num)

theorem witness_PlayGuardAndDistanceFault :
    Block.reset.tone.tcInit = false ∧ inited.tone.tcInit = true ∧
    distToTicks ex1 (given inited 0x80000001 0).block.host.arg0 = .error .distanceRange := by decide

theorem witness_FirstPlayStartsMuted :
    inited.tone.tcInit = true ∧ inited.cad.ceInit = false ∧ inited.drv.run = false ∧
    distToTicks ex1 (given inited 0x3DCCCCCD 0).block.host.arg0 = .ok 120 ∧
    CalcReady ex1 inited.chan.clockHz.toNat ex1.baseFreqHz ex1.defaultDuty := by
  unfold CalcReady
  decide

/-- The channel already started; a base frequency above the clock; a clock below twice the tick rate. -/
theorem witness_FirstPlayThatFails :
    distToTicks ex1 0x3DCCCCCD = .ok 120 ∧
    (sounding.tone.tcInit = true ∧ sounding.cad.ceInit = false ∧ sounding.drv.run = true) ∧
    ((clocked 999).tone.tcInit = true ∧ (clocked 999).cad.ceInit = false ∧ (clocked 999).drv.run = false ∧
      ex1.baseFreqHz > (clocked 999).chan.clockHz.toNat) ∧
    (ex1.baseFreqHz ≤ (clocked 1999999).chan.clockHz.toNat ∧
      (clocked 1999999).chan.clockHz.toNat < 2 * ex1.tickRate) ∧
    2 * ex1.tickRate ≤ (clocked 2000000).chan.clockHz.toNat := by decide

theorem witness_LaterPlayWritesTheBounds :
    (playing true true 0 50 120).tone.tcInit = true ∧ (playing true true 0 50 120).cad.ceInit = true ∧
    distToTicks ex1 (given (playing true true 0 50 120) 0x40200000 0).block.host.arg0 = .ok 3000 ∧
    toneAfter .play (given (playing true true 0 50 120) 0x40200000 0) = some ((63, 1015, 0), (1000, 0), 0x00000F00) := by
  decide

theorem witness_PauseCommand :
    inited.cad.ceInit = false ∧
    (({ playing true false 9 50 120 with tone := Block.reset.tone } : Block).cad.ceInit = true ∧
      ({ playing true false 9 50 120 with tone := Block.reset.tone } : Block).tone.tcInit = false) ∧
    ({ playing true false 9 50 120 with chan := (clocked 999).chan } : Block).tone.toneFreq.toNat >
      (clocked 999).chan.clockHz.toNat ∧
    ((broken true false 9).cad.ceInit = true ∧ (broken true false 9).tone.tcInit = true ∧
      (broken true false 9).tone.toneFreq.toNat ≤ (broken true false 9).chan.clockHz.toNat ∧
      (broken true false 9).chan.clockHz.toNat < 2 * ex1.tickRate) ∧
    ((playing true false 9 50 120).cad.ceInit = true ∧ (playing true false 9 50 120).tone.tcInit = true ∧
      CalcReady ex1 (playing true false 9 50 120).chan.clockHz.toNat
        (playing true false 9 50 120).tone.toneFreq.toNat 0) := by
  unfold CalcReady
  decide

theorem witness_PlayingTickSteps_premises :
    (playing true false 0 50 120).tone.tcInit = true ∧
    CalcReady ex1 (playing true false 0 50 120).chan.clockHz.toNat
      (playing true false 0 50 120).tone.toneFreq.toNat ex1.defaultDuty ∧
    (playing true false 0 50 120).cad.ceInit = true ∧ (playing true false 0 50 120).cad.paused = false := by
  unfold CalcReady
  decide

/-- Which clause a counter, a sub-state and the bounds fall under, at the edges: rows T8, T5, T6, T2, T3, T13, T14 and
T10, T11. No value falls under two. -/
theorem witness_PlayingTickSteps_cases :
    tickCase (playing true false 121 50 120).cad = .recover ∧
    tickCase (playing true false 49 50 120).cad = .stayAudible ∧
    tickCase (playing true false 50 50 120).cad = .flipMuted ∧
    tickCase (playing false false 119 50 120).cad = .stayMuted ∧
    tickCase (playing false false 120 50 120).cad = .flipAudible ∧
    tickCase (playing true false 51 50 120).cad = .noStep ∧ tickCase (playing true false 120 50 120).cad = .noStep ∧
    tickCase (playing false false 1 50 0).cad = .noStep ∧ tickCase (playing false false 50 50 0).cad = .noStep := by
  decide

theorem witness_IdleAndPausedTicks :
    inited.cad.ceInit = false ∧ (playing true true 0 50 120).cad.ceInit = true ∧
    (playing true true 0 50 120).cad.paused = true := by decide

theorem witness_FaultingTickKeepsTheCounter :
    (broken true false 0).tone.tcInit = true ∧
    (broken true false 0).tone.toneFreq.toNat ≤ (broken true false 0).chan.clockHz.toNat ∧
    (broken true false 0).chan.clockHz.toNat < 2 * ex1.tickRate ∧
    (broken true false 0).cad.ceInit = true ∧ (broken true false 0).cad.paused = false ∧
    tickCase (broken true false 121).cad = .recover ∧ tickCase (broken false false 120).cad = .flipAudible ∧
    tickCase (broken true false 50).cad = .flipMuted ∧ tickCase (broken true false 49).cad = .stayAudible ∧
    tickCase (broken false false 119).cad = .stayMuted := by decide

theorem witness_CycleCompleteEvent :
    ((asks inited .cycleComplete).env.inputs = [tick] ∧ inited.drv.run = false) ∧
    ((asks sounding .cycleComplete).env.inputs = [tick] ∧ sounding.drv.run = true) := by decide

/-- An accepted event, an ignored one, and a start. -/
theorem witness_ActiveCopiesChangeAtReloadAndStart :
    (∃ t, step (asks sounding .cycleComplete) = .next t ∧ sounding.drv.run = true) ∧
    (∃ t, step (asks inited .cycleComplete) = .next t ∧ inited.drv.run = false) ∧
    (∃ t, step (asks inited (.regWrite 0 1)) = .next t ∧ t.block.drv.run = true) :=
  ⟨⟨_, rfl, by decide⟩, ⟨_, rfl, by decide⟩, ⟨_, rfl, by decide⟩⟩

/-- PLAY from each of the four states, and one that fails. -/
theorem witness_StateMachineTransitions_play :
    Inv (under ex1 inited) ∧ phaseOf inited.cad = .uninitialized ∧
    (∃ t, exec .play (given inited 0x3DCCCCCD 0) = .next t ∧ t.block.host.result = .ok) ∧
    (∃ t, exec .play (given inited 0x7FC00000 0) = .next t ∧ t.block.host.result ≠ .ok) ∧
    (∃ t, exec .play (given (playing true false 7 50 120) 0 0) = .next t ∧ t.block.host.result = .ok) ∧
    (∃ t, exec .play (given (playing false false 7 50 120) 0 0) = .next t ∧ t.block.host.result = .ok) ∧
    (∃ t, exec .play (given (playing true true 0 50 120) 0 0) = .next t ∧ t.block.host.result = .ok) :=
  ⟨inv_inited, by decide, ⟨_, rfl, by decide⟩, ⟨_, rfl, by decide⟩, ⟨_, rfl, by decide⟩, ⟨_, rfl, by decide⟩,
    ⟨_, rfl, by decide⟩⟩

/-- PAUSE, ONTICK and another command from the states that their clauses name. -/
theorem witness_StateMachineTransitions_others :
    (∃ t, exec .pause (under ex1 inited) = .next t) ∧
    (∃ t, exec .pause (under ex1 (playing true false 9 50 120)) = .next t) ∧
    (∃ t, exec .onTick (under ex1 inited) = .next t) ∧
    (∃ t, exec .onTick (under ex1 (playing true true 0 50 120)) = .next t) ∧
    (∃ t, exec .onTick (under ex1 (playing true false 50 50 120)) = .next t) ∧
    (∃ t, exec .onTick (under ex1 (playing false false 120 50 120)) = .next t) ∧
    (∃ t, exec .mute (under ex1 (playing true false 9 50 120)) = .next t) ∧
    phaseOf (playing true true 0 50 120).cad = .paused ∧ phaseOf (playing true false 0 50 120).cad = .playingAudible ∧
    phaseOf (playing false false 0 50 120).cad = .playingMuted :=
  ⟨⟨_, rfl⟩, ⟨_, rfl⟩, ⟨_, rfl⟩, ⟨_, rfl⟩, ⟨_, rfl⟩, ⟨_, rfl⟩, ⟨_, rfl⟩, by decide⟩

theorem witness_TicksNeverFail :
    Inv (asks (playing true false 9 50 120) .cycleComplete) ∧ (playing true false 9 50 120).cad.ceInit = true ∧
    (asks (playing true false 9 50 120) .cycleComplete).env.inputs = [tick] ∧
    (∃ t, exec .onTick (asks (playing true false 9 50 120) .cycleComplete) = .next t) ∧
    (∃ t, exec .pause (asks (playing true false 9 50 120) .cycleComplete) = .next t) ∧
    (∃ t, step (asks (playing true false 9 50 120) .cycleComplete) = .next t) :=
  ⟨inv_playing .., rfl, rfl, ⟨_, rfl⟩, ⟨_, rfl⟩, ⟨_, rfl⟩⟩

/-- Two states with one cadence that differ in the stored duty before a tick of step 2; the ticks with and without a call at
the edges of the no-step case (rows T13, T14). -/
theorem witness_TickDecisionIsAFunctionOfTheCadence :
    (Inv (under ex1 (playing true false 9 50 120)) ∧ Inv (under ex1 (audibleNow 9)) ∧
      (playing true false 9 50 120).cad = (audibleNow 9).cad ∧
      (playing true false 9 50 120).tone.toneDuty ≠ (audibleNow 9).tone.toneDuty ∧
      (∃ t, exec .onTick (under ex1 (playing true false 9 50 120)) = .next t) ∧
      (∃ t, exec .onTick (under ex1 (audibleNow 9)) = .next t)) ∧
    (¬TickMakesNoCall (audibleNow 9).cad ∧ ¬TickMakesNoCall (audibleNow 50).cad ∧
      TickMakesNoCall (audibleNow 51).cad ∧ TickMakesNoCall (audibleNow 120).cad ∧
      ¬TickMakesNoCall (audibleNow 121).cad ∧ TickMakesNoCall inited.cad) :=
  ⟨⟨inv_playing .., inv_audibleNow, by decide, by decide, ⟨_, rfl⟩, ⟨_, rfl⟩⟩, by
    unfold TickMakesNoCall
    decide⟩

/-- The largest counter that a tick can still raise: row T14. -/
theorem witness_TickBoundsTheCounter :
    Inv (under ex1 (playing true false 120 50 120)) ∧
    ∃ t, exec .onTick (under ex1 (playing true false 120 50 120)) = .next t ∧ t.block.cad.tickCnt = 121 :=
  ⟨inv_playing .., _, rfl, by decide⟩

/-- Bounds `n = 1`, `m = 2`: `k = 0`, `k = m` and `k = m + 1` events. -/
theorem witness_MutedPhaseLength :
    Inv (under ex1 (playing false false 0 1 2) [tick, tick, tick]) ∧
    (playing false false 0 1 2).drv.run = true ∧ (playing false false 0 1 2).cad.ceInit = true ∧
    (playing false false 0 1 2).cad.paused = false ∧ (playing false false 0 1 2).cad.audible = false ∧
    (playing false false 0 1 2).cad.tickCnt = 0 ∧ AllTicks [] ∧ AllTicks [tick, tick] ∧ AllTicks [tick, tick, tick] ∧
    [tick, tick, tick].length ≤ (playing false false 0 1 2).cad.offTicks.toNat + 1 :=
  ⟨inv_playing .., rfl, rfl, rfl, rfl, rfl, by simp [AllTicks], by simp [AllTicks, tick], by simp [AllTicks, tick],
    by decide⟩

theorem witness_FullCadenceReturns :
    Inv (under ex1 (playing false false 0 1 2) [tick, tick, tick, tick, tick]) ∧
    AllTicks [tick, tick, tick, tick, tick] ∧
    [tick, tick, tick, tick, tick].length =
      (playing false false 0 1 2).cad.onTicks.toNat + (playing false false 0 1 2).cad.offTicks.toNat + 2 :=
  ⟨inv_playing .., by simp [AllTicks, tick], by decide⟩

/-- A pause begun audible and one begun muted, the muted one resumed with `OFF_TICKS = 0`. -/
theorem witness_ResumeFromPause :
    (Inv (given (playing true true 0 50 120) 0x3DCCCCCD 0) ∧ distToTicks ex1 0x3DCCCCCD = .ok 120 ∧
      ∃ t, exec .play (given (playing true true 0 50 120) 0x3DCCCCCD 0) = .next t ∧ ∃ u, exec .onTick t = .next u) ∧
    (Inv (given (playing false true 0 50 120) 0 0) ∧ distToTicks ex1 0 = .ok 0 ∧
      ∃ t, exec .play (given (playing false true 0 50 120) 0 0) = .next t ∧ ∃ u, exec .onTick t = .next u) := by
  exact ⟨⟨inv_given (inv_halted ..) .., by decide, _, rfl, _, rfl⟩,
    ⟨inv_given (inv_halted ..) .., by decide, _, rfl, _, rfl⟩⟩

theorem witness_LatestPlayWins :
    distToTicks ex1 0 = .ok 0 ∧
    ∃ t, exec .play (given inited 0x40200000 0) = .next t ∧ t.block.host.result = .ok ∧
      (∃ u, exec .play { t with block := { t.block with host := { t.block.host with arg0 := 0 } } } = .next u) ∧
      ∃ v, exec .play (given inited 0 0) = .next v :=
  ⟨by decide, _, rfl, by decide, ⟨_, rfl⟩, ⟨_, rfl⟩⟩

/-- Both ways to `NotInitialized`. -/
theorem witness_NotInitializedExactly :
    (Inv (under ex1 inited) ∧
      ∃ t, exec .pause (under ex1 inited) = .next t ∧ t.block.host.result = .notInitialized) ∧
    (Inv (under ex1 Block.reset) ∧
      ∃ t, exec .on (under ex1 Block.reset) = .next t ∧ t.block.host.result = .notInitialized) :=
  ⟨⟨inv_inited, _, rfl, by decide⟩, ⟨inv_reset, _, rfl, by decide⟩⟩

theorem witness_InvalidParameterExactly :
    (Inv (given inited 1 101) ∧
      ∃ t, exec .drvUpdate (given inited 1 101) = .next t ∧ t.block.host.result = .invalidParameter) ∧
    (Inv (given inited 64000001 0) ∧
      ∃ t, exec .on (given inited 64000001 0) = .next t ∧ t.block.host.result = .invalidParameter) ∧
    (Inv (given sounding 64000001 0) ∧
      ∃ t, exec .updateFreq (given sounding 64000001 0) = .next t ∧ t.block.host.result = .invalidParameter) ∧
    (Inv (given (clocked 999) 0 0) ∧
      ∃ t, exec .play (given (clocked 999) 0 0) = .next t ∧ t.block.host.result = .invalidParameter) :=
  ⟨⟨inv_given inv_inited .., _, rfl, by decide⟩, ⟨inv_given inv_inited .., _, rfl, by decide⟩,
    ⟨inv_given inv_sounding .., _, rfl, by decide⟩, ⟨inv_given inv_clocked .., _, rfl, by decide⟩⟩

theorem witness_StartWhileRunningExactly :
    sounding.host.fault = false ∧
    (∃ t, exec .drvStart (under ex1 sounding) = .next t ∧ t.block.host.faultCause = some .startWhileRunning) ∧
    (∃ t, exec .on (given sounding 440 0) = .next t ∧ t.block.host.faultCause = some .startWhileRunning) ∧
    (∃ t, exec .play (given sounding 0 0) = .next t ∧ t.block.host.faultCause = some .startWhileRunning) :=
  ⟨rfl, ⟨_, rfl, by decide⟩, ⟨_, rfl, by decide⟩, ⟨_, rfl, by decide⟩⟩

theorem witness_Frames :
    (∃ t, exec .drvUpdate (given sounding 2000 25) = .next t) ∧
    ∃ t, exec .play (given (playing true false 9 50 120) 0 0) = .next t ∧ (playing true false 9 50 120).cad.ceInit = true :=
  ⟨⟨_, rfl⟩, ⟨_, rfl, rfl⟩⟩

theorem witness_StepKeepsTheInvariant :
    Inv (asks (playing true false 50 50 120) .cycleComplete) ∧
    ∃ t, step (asks (playing true false 50 50 120) .cycleComplete) = .next t :=
  ⟨inv_playing .., _, rfl⟩

theorem witness_OutputsFollowRun : inited.drv.run = false ∧ sounding.drv.run = true := by decide

/-- K20, then MUTE and UNMUTE. -/
theorem witness_DirectUpdateIsUndone :
    ∃ t, exec .drvUpdate (given sounding 2000 25) = .next t ∧ t.block.host.result ≠ .fault ∧
      (∃ u, exec .mute t = .next u) ∧ (∃ v, exec .mute (given sounding 2000 25) = .next v ∧ v.block.host.result = .ok) ∧
      (∃ u, exec .unmute t = .next u) ∧
      ∃ v, exec .unmute (given sounding 2000 25) = .next v ∧ v.block.host.result = .ok :=
  ⟨_, rfl, by decide, ⟨_, rfl⟩, ⟨_, rfl, by decide⟩, ⟨_, rfl⟩, ⟨_, rfl, by decide⟩⟩

/-- OFF and DRV_STOP in the middle of a phase, with three events to come. -/
theorem witness_OffFreezesTheCadence :
    (playing false false 2 50 120).tone.tcInit = true ∧ AllTicks [tick, tick, tick] ∧
    (∃ t, exec .off (under ex1 (playing false false 2 50 120) [tick, tick, tick]) = .next t ∧
      t.env.inputs = [tick, tick, tick]) ∧
    (∃ t, exec .drvStop (under ex1 (playing false false 2 50 120) [tick, tick, tick]) = .next t ∧
      t.env.inputs = [tick, tick, tick]) :=
  ⟨rfl, by simp [AllTicks, tick], ⟨_, rfl, rfl⟩, ⟨_, rfl, rfl⟩⟩

theorem witness_OperandWriteAndTickCommute :
    (under ex1 sounding [⟨.regWrite 1 7, ports⟩, tick]).env.inputs =
      [⟨.regWrite 1 7, ports⟩, ⟨.cycleComplete, ports⟩] := by decide

theorem witness_TickRunsAreSafe :
    Inv (under ex1 (playing false false 0 1 2) [tick, tick, tick]) ∧
    noFault (under ex1 (playing false false 0 1 2) [tick, tick, tick]) = true ∧ AllTicks [tick, tick, tick] :=
  ⟨inv_playing .., by decide, by simp [AllTicks, tick]⟩

end Sys2Proof.Tests
end

/-! PROOFS. What reset leaves: the table of R47, at the start and after the RESET event (R230). -/

namespace Sys2Proof.Machine

theorem respondedBlock_reset (p : Params) (pins : Pins) (b : Block) :
    respondedBlock p pins .reset b = Block.reset := rfl

/-- The RESET step from any state: it takes its input, keeps the parameters and leaves the reset block. -/
theorem step_reset {s : State} {pins : Pins} {rest : List Input} (h : s.env.inputs = ⟨.reset, pins⟩ :: rest) :
    step s = .next (s.after ⟨.reset, pins⟩ rest Block.reset) := by
  rw [step_eq h, respondedBlock_reset]

/-- Settles O11: the start state's block is the table by definition, and the RESET step is `step_reset`. -/
theorem resetValues : Obligations.ResetValues := by
  unfold Obligations.ResetValues
  have start : State.reset.block = Block.reset := rfl
  rw [start]
  constructor
  · rfl
  · intro s pins rest h
    exact step_reset h

end Sys2Proof.Machine

/-! PROOFS. The register port: what a read returns and what an operand write or an illegal access leaves (R61, R62, R64,
R65). -/

namespace Sys2Proof.Machine

/-! ### Reads -/

/-- `TONE_DUTY` is a byte, read with zeros above it (R42, R61), so the word has the byte's value. -/
theorem regRead_toneDuty_toNat (b : Block) : (regRead b 7).toNat = b.tone.toneDuty.toNat := by
  have content : regRead b 7 = b.tone.toneDuty.setWidth 32 := rfl
  rw [content]
  exact BitVec.toNat_setWidth_of_le (by decide)

/-- The data of the pending read is the content of its register (R41, R61). -/
theorem regRData_regRead {s : State} {i : RegIdx} {pins : Pins} {rest : List Input}
    (h : s.env.inputs = ⟨.regRead i, pins⟩ :: rest) : regRData s = some (regRead s.block i) := by
  simp only [regRData, h]

theorem respondedBlock_regRead (p : Params) (pins : Pins) (i : RegIdx) (b : Block) :
    respondedBlock p pins (.regRead i) b = b := rfl

/-- The read step takes its input and leaves the block as it was. -/
theorem step_regRead {s : State} {i : RegIdx} {pins : Pins} {rest : List Input}
    (h : s.env.inputs = ⟨.regRead i, pins⟩ :: rest) :
    step s = .next (s.after ⟨.regRead i, pins⟩ rest s.block) := by
  rw [step_eq h, respondedBlock_regRead]

/-- Settles O7: each index is a row of `regRead`, `TONE_DUTY` by its byte's value; the read step is `step_regRead`. -/
theorem registerReadContent : Obligations.RegisterReadContent := by
  unfold Obligations.RegisterReadContent
  constructor
  · intro b
    exact ⟨rfl, rfl, rfl, rfl, rfl, rfl, rfl, regRead_toneDuty_toNat b, rfl, rfl, rfl, rfl, rfl, rfl, rfl, rfl⟩
  · intro s i pins rest h
    exact ⟨regRData_regRead h, step_regRead h⟩

/-! ### Writes other than to CMD -/

theorem writtenBlock_arg0 (p : Params) (pins : Pins) (v : Word) (b : Block) :
    writtenBlock p pins 1 v b = b.withArg0 v := rfl

theorem writtenBlock_arg1 (p : Params) (pins : Pins) (v : Word) (b : Block) :
    writtenBlock p pins 2 v b = b.withArg1 v := rfl

/-- Every index above the operands is read-only or reserved (R64, R65). -/
theorem writtenBlock_of_three_le (p : Params) (pins : Pins) {i : RegIdx} (hi : 3 ≤ i.toNat) (v : Word) (b : Block) :
    writtenBlock p pins i v b = b.recordFault .illegalAccess := by
  unfold writtenBlock
  split
  · omega
  · omega
  · omega
  · rfl

/-- A port write as a step: it takes its input and leaves the written block. -/
theorem step_regWrite {s : State} {i : RegIdx} {v : Word} {pins : Pins} {rest : List Input}
    (h : s.env.inputs = ⟨.regWrite i v, pins⟩ :: rest) :
    step s = .next (s.after ⟨.regWrite i v, pins⟩ rest (writtenBlock s.env.params pins i v s.block)) :=
  step_eq h

/-- Settles O10: the write step with the block each index leaves, as `withArg0`, `withArg1` and `recordFault` say it. -/
theorem registerWrites : Obligations.RegisterWrites := by
  unfold Obligations.RegisterWrites
  intro s v pins rest
  refine ⟨fun h => ?arg0, fun h => ?arg1, fun i hi h => ?illegal⟩
  case arg0 =>
    rw [step_regWrite h, writtenBlock_arg0]
    rfl
  case arg1 =>
    rw [step_regWrite h, writtenBlock_arg1]
    rfl
  case illegal =>
    rw [step_regWrite h, writtenBlock_of_three_le _ _ hi]
    rfl

end Sys2Proof.Machine

/-! PROOFS. The decoder and the encoder as inverses of each other, and the words that are no command (R80, R81, R86,
R205). -/

namespace Sys2Proof

/-! ### The decoder and the encoder -/

/-- The opcode map answers a command on its own `OPC` value and on no other (R81). -/
theorem decodeOpc_eq_ok_iff (c : BitVec 4) (i : Instr) : decodeOpc c = .ok i ↔ c = opcOf i := by
  constructor
  · revert c
    cases i <;> decide
  · rintro rfl
    cases i <;> rfl

/-- The opcode map answers a command exactly on the assigned values (R81, R86). -/
theorem decodeOpc_isOk_iff (c : BitVec 4) : (decodeOpc c).isOk = true ↔ c ≠ 0 ∧ c.toNat < 0xD := by
  revert c
  decide

/-- The fields of a word are all of it (R80). -/
theorem assemble_fieldsOf (w : Word) : assemble (fieldsOf w) = w := by
  unfold assemble fieldsOf
  rw [BitVec.extractLsb'_append_extractLsb'_eq_extractLsb' (by rfl)]
  exact BitVec.extractLsb'_eq_self

/-- A word whose reserved bits are 0 decodes as its `OPC` (R81). -/
theorem decode_of_rsv_zero {w : Word} (h : (fieldsOf w).rsv = 0) : decode w = decodeOpc (fieldsOf w).opc := by
  rw [decode, CmdWord.reservedIsZero, h]
  rfl

/-- A word with a reserved bit set is no command, whatever its `OPC` (R86). -/
theorem decode_of_rsv_ne_zero {w : Word} (h : (fieldsOf w).rsv ≠ 0) : decode w = .error .reservedBits := by
  rw [decode, CmdWord.reservedIsZero, beq_false_of_ne h]
  rfl

theorem decode_encode (i : Instr) : decode (encode i) = .ok i := by
  cases i <;> rfl

/-- A word decodes to a command exactly when it is the command's word (R80, R81). -/
theorem decode_eq_ok_iff (w : Word) (i : Instr) : decode w = .ok i ↔ w = encode i := by
  constructor
  · intro h
    have hrsv : (fieldsOf w).rsv = 0 := by
      by_contra hne
      simp [decode_of_rsv_ne_zero hne] at h
    have hopc : (fieldsOf w).opc = opcOf i := by
      rwa [decode_of_rsv_zero hrsv, decodeOpc_eq_ok_iff] at h
    have fields : fieldsOf w = { opc := opcOf i, rsv := 0 } := by rw [← hopc, ← hrsv]
    rw [← assemble_fieldsOf w, fields, encode]
  · rintro rfl
    exact decode_encode i

/-- Settles O2: `decode_eq_ok_iff` at each row, whose word is the encoder's. -/
theorem decodeMatchesExactlyTheTable : Obligations.DecodeMatchesExactlyTheTable := by
  unfold Obligations.DecodeMatchesExactlyTheTable
  intro w
  exact ⟨decode_eq_ok_iff w .drvStart, decode_eq_ok_iff w .drvStop, decode_eq_ok_iff w .drvUpdate,
    decode_eq_ok_iff w .init, decode_eq_ok_iff w .on, decode_eq_ok_iff w .off, decode_eq_ok_iff w .updateFreq,
    decode_eq_ok_iff w .mute, decode_eq_ok_iff w .unmute, decode_eq_ok_iff w .play, decode_eq_ok_iff w .pause,
    decode_eq_ok_iff w .onTick⟩

end Sys2Proof

namespace Sys2Proof.Machine

/-! ### Illegal words -/

/-- The decoder answers a command exactly when none of the three conditions of R86 holds. -/
theorem decode_isOk_iff (w : Word) :
    (decode w).isOk = true ↔ (fieldsOf w).rsv = 0 ∧ (fieldsOf w).opc ≠ 0 ∧ (fieldsOf w).opc.toNat < 0xD := by
  by_cases h : (fieldsOf w).rsv = 0
  · rw [decode_of_rsv_zero h, decodeOpc_isOk_iff, and_iff_right h]
  · rw [decode_of_rsv_ne_zero h]
    exact iff_of_false Bool.false_ne_true fun legal => h legal.1

theorem decode_isOk_iff_exists (w : Word) : (decode w).isOk = true ↔ ∃ i, decode w = .ok i := by
  cases decode w <;> simp [Except.isOk, Except.toBool]

/-- No command decodes exactly when one of the three conditions of R86 holds. -/
theorem illegal_iff (w : Word) :
    (w.extractLsb' 4 28 ≠ 0 ∨ w.extractLsb' 0 4 = 0 ∨ 0xD ≤ (w.extractLsb' 0 4).toNat) ↔ ∀ i, decode w ≠ .ok i := by
  rw [← not_exists, ← decode_isOk_iff_exists, decode_isOk_iff, not_and_or, not_and_or, not_not, Nat.not_lt]
  rfl

/-- A write to CMD of a word that is no command leaves the fault record and `RESULT` (R86, R205). -/
theorem writtenBlock_illegal (p : Params) (pins : Pins) {w : Word} (h : ∀ i, decode w ≠ .ok i) (b : Block) :
    writtenBlock p pins 0 w b = (b.recordFault .illegalCommand).withResult .fault := by
  cases hd : decode w with
  | ok i => exact absurd hd (h i)
  | error e => simp [writtenBlock, hd]

/-- Settles O4: `illegal_iff`, and the write step with the block that `writtenBlock_illegal` gives. -/
theorem illegalWordFaults : Obligations.IllegalWordFaults := by
  unfold Obligations.IllegalWordFaults
  intro s w pins rest h
  refine ⟨illegal_iff w, fun illegal => ?_⟩
  rw [step_regWrite h, writtenBlock_illegal _ _ ((illegal_iff w).1 illegal)]
  rfl

end Sys2Proof.Machine

/-! PROOFS. The binary32 reading of a word in rational arithmetic (R88). -/

namespace Sys2Proof.Machine

/-- The sign bit as the number `s` of R88. -/
theorem signOf_eq (w : Word) : signOf w = decide ((w.extractLsb' 31 1).toNat = 1) := by
  rw [signOf, BitVec.getLsbD, Nat.testBit_eq_decide_div_mod_eq, BitVec.extractLsb'_toNat,
    Nat.shiftRight_eq_div_pow]

/-! ### Exponent 255 -/

theorem value32_nan {w : Word} (he : exponentOf w = 255) (hm : fractionOf w ≠ 0) : value32 w = .nan := by
  simp [value32, he, hm]

theorem value32_posInf {w : Word} (he : exponentOf w = 255) (hm : fractionOf w = 0)
    (hs : (w.extractLsb' 31 1).toNat = 0) : value32 w = .posInf := by
  simp [value32, he, hm, signOf_eq, hs]

theorem value32_negInf {w : Word} (he : exponentOf w = 255) (hm : fractionOf w = 0)
    (hs : (w.extractLsb' 31 1).toNat = 1) : value32 w = .negInf := by
  simp [value32, he, hm, signOf_eq, hs]

/-! ### Finite words -/

/-- A finite word's units: the magnitude under the sign of R88. -/
def unitsOf (w : Word) : Int := (-1) ^ (w.extractLsb' 31 1).toNat * magnitudeOf w

theorem value32_finite {w : Word} (he : exponentOf w ≠ 255) : value32 w = .finite (unitsOf w) := by
  have hs : (w.extractLsb' 31 1).toNat = 0 ∨ (w.extractLsb' 31 1).toNat = 1 := by omega
  obtain hs | hs := hs <;> simp [value32, he, unitsOf, signOf_eq, hs]

theorem magnitudeOf_of_exponent_zero {w : Word} (he : exponentOf w = 0) :
    (magnitudeOf w : ℚ) / 2 ^ 149 = fractionOf w * (2 : ℚ) ^ (-149 : ℤ) := by
  rw [magnitudeOf, if_pos he, zpow_neg, div_eq_mul_inv]
  norm_cast

/-- `2^(e - 1)` units of `2^(-149)` are `2^(e - 150)` (R88). -/
theorem magnitudeOf_of_exponent_ne_zero {w : Word} (he : exponentOf w ≠ 0) :
    (magnitudeOf w : ℚ) / 2 ^ 149 = (2 ^ 23 + fractionOf w) * (2 : ℚ) ^ ((exponentOf w : ℤ) - 150) := by
  have scale : (2 : ℚ) ^ ((exponentOf w : ℤ) - 150) = 2 ^ (exponentOf w - 1) / 2 ^ 149 := by
    rw [← zpow_natCast, ← zpow_natCast, ← zpow_sub₀ two_ne_zero]
    congr 1
    omega
  rw [magnitudeOf, if_neg he, scale]
  push_cast
  ring

/-- The number that the units stand for is the sign times the magnitude's. -/
theorem unitsOf_div (w : Word) :
    (unitsOf w : ℚ) / 2 ^ 149 = (-1) ^ (w.extractLsb' 31 1).toNat * ((magnitudeOf w : ℚ) / 2 ^ 149) := by
  rw [unitsOf]
  push_cast
  ring

/-- Settles O28: one lemma per form of a word, the finite ones by `unitsOf_div` and their magnitude. -/
theorem value32IsBinary32 : Obligations.Value32IsBinary32 := by
  unfold Obligations.Value32IsBinary32
  intro w s e m
  refine ⟨value32_nan, value32_posInf, value32_negInf, fun hzero => ?subnormal, fun hne hfin => ?normal⟩
  case subnormal =>
    have hfin : exponentOf w ≠ 255 := ne_of_eq_of_ne hzero (by decide)
    refine ⟨_, value32_finite hfin, ?_⟩
    rw [unitsOf_div, magnitudeOf_of_exponent_zero hzero, mul_assoc]
    rfl
  case normal =>
    refine ⟨_, value32_finite hfin, ?_⟩
    rw [unitsOf_div, magnitudeOf_of_exponent_ne_zero hne, mul_assoc]
    rfl

end Sys2Proof.Machine

/-! PROOFS. The Driver (spec/40_pwm_driver.md): its three commands, the prescaler value, and the cycle-complete event as
the transition of ONTICK after the reload (R101 to R119, R180). -/

namespace Sys2Proof.Machine

/-! ### The guarded commands -/

theorem opOf_drvStart_initialized {b : Block} (p : Params) (pins : Pins) (h : b.tone.tcInit = true) :
    opOf .drvStart p pins b = drvStart b :=
  guarded_initialized h _

theorem opOf_drvStop_initialized {b : Block} (p : Params) (pins : Pins) (h : b.tone.tcInit = true) :
    opOf .drvStop p pins b = (b.stopRun, .ok) :=
  guarded_initialized h _

theorem opOf_drvUpdate_initialized {b : Block} (p : Params) (pins : Pins) (h : b.tone.tcInit = true) :
    opOf .drvUpdate p pins b = drvUpdate p b.host.arg0.toNat b.host.arg1.toNat b :=
  guarded_initialized h _

/-- Settles O14: the guard, then `drv_start` running or stopped. -/
theorem drvStartCommand : Obligations.DrvStartCommand := by
  unfold Obligations.DrvStartCommand
  intro s
  refine ⟨fun huninit => ?uninitialized, fun hinit hrun => ?running, fun hinit hrun => ?stopped⟩
  case uninitialized => exact exec_notInitialized (guarded_uninitialized huninit _)
  case running =>
    apply exec_raises
    rw [opOf_drvStart_initialized _ _ hinit, drvStart_running hrun]
  case stopped =>
    apply exec_ok (b := s.block.startRun)
    rw [opOf_drvStart_initialized _ _ hinit, drvStart_stopped hrun]

/-- Settles O15: the guard, then `RUN` cleared whatever it was. -/
theorem drvStopCommand : Obligations.DrvStopCommand := by
  unfold Obligations.DrvStopCommand
  intro s
  refine ⟨fun huninit => ?uninitialized, fun hinit => ?initialized⟩
  case uninitialized => exact exec_notInitialized (guarded_uninitialized huninit _)
  case initialized => exact exec_ok (opOf_drvStop_initialized _ _ hinit)

/-- Settles O16: the guard, then the three cases of `drv_update`; on `OK` the registers are those of `calcPreload`. -/
theorem drvUpdateCommand : Obligations.DrvUpdateCommand := by
  unfold Obligations.DrvUpdateCommand
  intro s p clk f d
  refine ⟨fun huninit => ?uninitialized, fun hinit hbad => ?invalid, fun hinit hf hd hzero => ?divisorZero,
    fun hinit hready => ?ok⟩
  case uninitialized => exact exec_notInitialized (guarded_uninitialized huninit _)
  case invalid =>
    apply exec_invalidParameter
    rw [opOf_drvUpdate_initialized _ _ hinit, drvUpdate_invalid hbad]
  case divisorZero =>
    apply exec_raises
    rw [opOf_drvUpdate_initialized _ _ hinit, drvUpdate_divisorZero hf hd hzero]
  case ok =>
    have ⟨_, hd, _⟩ := hready
    refine ⟨(calcPreload p f d s.block).drv, calcPreload_preloaded p f hd s.block, calcPreload_same p f d s.block,
      ?_⟩
    apply exec_ok (b := calcPreload p f d s.block)
    rw [opOf_drvUpdate_initialized _ _ hinit, drvUpdate_ok hready]

/-! ### The prescaler value -/

/-- The quotient of R106 over the rationals, floored, is the quotient of natural numbers. -/
theorem prescaler_eq_floor (p : Params) (clk : Nat) :
    prescaler p clk = Int.floor ((clk : ℚ) / p.tickRate) - 1 := by
  rw [prescaler, Rat.floor_natCast_div_natCast, Int.natCast_div]

theorem prescaler_of_clk_lt {p : Params} {clk : Nat} (h : clk < p.tickRate) : prescaler p clk = -1 := by
  rw [prescaler, Nat.div_eq_of_lt h]
  rfl

theorem prescaler_of_clk_lt_two_mul {p : Params} {clk : Nat} (hlo : p.tickRate ≤ clk) (hhi : clk < 2 * p.tickRate) :
    prescaler p clk = 0 := by
  have quotient : clk / p.tickRate = 1 := Nat.div_eq_of_lt_le (by omega) (by omega)
  rw [prescaler, quotient]
  rfl

theorem one_le_prescaler {p : Params} {clk : Nat} (h : 2 * p.tickRate ≤ clk) : 1 ≤ prescaler p clk :=
  not_lt.1 (mt (prescaler_lt_one_iff p clk).1 (not_lt.2 h))

theorem prescaler_le (p : Params) (clk : Nat) : prescaler p clk ≤ (clk : Int) - 1 := by
  have quotient : clk / p.tickRate ≤ clk := Nat.div_le_self _ _
  rw [prescaler]
  omega

/-- Settles O17: the floor, then one range at a time; the width bound is that of the clock's word. -/
theorem prescalerFormula : Obligations.PrescalerFormula := by
  unfold Obligations.PrescalerFormula
  intro p clk
  refine ⟨prescaler_eq_floor p _, prescaler_of_clk_lt, prescaler_of_clk_lt_two_mul, fun hclk => ?_⟩
  have hle := prescaler_le p clk.toNat
  have hwidth := clk.isLt
  exact ⟨one_le_prescaler hclk, hle, by omega⟩

/-! ### The cycle-complete event -/

theorem tickEvent_stopped (p : Params) {b : Block} (h : b.drv.run = false) : tickEvent p b = b := by
  simp [tickEvent, h]

theorem tickEvent_running (p : Params) {b : Block} (h : b.drv.run = true) :
    tickEvent p b = (ontick p b.reload).asEvent := by
  simp [tickEvent, h]

/-- The step of the event: it takes its input and leaves the block of `tickEvent`. -/
theorem step_cycleComplete {s : State} {pins : Pins} {rest : List Input}
    (h : s.env.inputs = ⟨.cycleComplete, pins⟩ :: rest) :
    step s = .next (s.after ⟨.cycleComplete, pins⟩ rest (tickEvent s.env.params s.block)) :=
  step_eq h

/-- The two endings of a transition differ in `RESULT` alone, which an event leaves (R119, R204). -/
theorem Ran.asEvent_eq_asCommand_withResult (m : Ran) : m.asEvent = m.asCommand.withResult m.1.host.result := by
  obtain ⟨b, _ | _ | _ | c⟩ := m <;> rfl

/-- A transition writes no `RESULT`, so the event has the one from before it. -/
theorem ontick_asEvent (p : Params) (b : Block) :
    (ontick p b).asEvent = (ontick p b).asCommand.withResult b.host.result := by
  obtain ⟨hhost, _⟩ := ontick_frame p b
  rw [Ran.asEvent_eq_asCommand_withResult, hhost]

/-- Settles O38: stopped, the event leaves the block; running, it is ONTICK on the reloaded block, with the
`RESULT` from before. -/
theorem cycleCompleteEvent : Obligations.CycleCompleteEvent := by
  unfold Obligations.CycleCompleteEvent
  intro s pins rest h
  rw [step_cycleComplete h]
  refine ⟨fun hrun => ?stopped, fun hrun => ?running⟩
  case stopped => rw [tickEvent_stopped _ hrun]
  case running =>
    rw [tickEvent_running _ hrun, ontick_asEvent, Block.reload_host]
    exact ⟨_, exec_eq_command .onTick (s.onBlock Block.reload), rfl⟩

end Sys2Proof.Machine

/-! PROOFS. The Tone Controller (spec/41_tone_controller.md): the commands INIT, ON, OFF, UPDATE_FREQ and UNMUTE, each
from the endings of its operation (R132 to R135, R137). -/

namespace Sys2Proof.Machine

/-! ### INIT -/

theorem toneInit_repeated {b : Block} (pins : Pins) (ht : b.tone.tcInit = true) :
    toneInit pins b = (b, .raised .initRepeated) := by
  simp only [toneInit, ht, if_true]

theorem toneInit_clockZero {pins : Pins} {b : Block} (ht : b.tone.tcInit = false) (hclk : pins.clkHzIn = 0) :
    toneInit pins b = (b, .raised .clockZero) := by
  simp only [toneInit, ht, Bool.false_eq_true, if_false, hclk, if_true]

theorem toneInit_ok {pins : Pins} {b : Block} (ht : b.tone.tcInit = false) (hclk : pins.clkHzIn ≠ 0) :
    toneInit pins b = (b.bindChannel pins, .ok) := by
  simp only [toneInit, ht, Bool.false_eq_true, if_false, hclk]

/-- Settles O19: the repeated call first, then the clock of 0, then `bindChannel`. -/
theorem initCommand : Obligations.InitCommand := by
  unfold Obligations.InitCommand
  intro s
  refine ⟨fun hinit => ?repeated, fun huninit hclk => ?clockZero, fun huninit hclk => ?ok⟩
  case repeated => exact exec_raises (toneInit_repeated _ hinit)
  case clockZero => exact exec_raises (toneInit_clockZero huninit hclk)
  case ok => exact exec_ok (toneInit_ok huninit hclk)

/-! ### ON -/

/-- The frequency an update stores is the operand's word itself (R83, R139). -/
theorem ofNat_freqOperand (b : Block) : BitVec.ofNat 32 (freqOperand b) = b.host.arg0 := by
  rw [freqOperand, BitVec.ofNat_toNat, BitVec.setWidth_eq]

theorem toneOn_running {b : Block} (p : Params) (f : Nat) (ht : b.tone.tcInit = true) (hr : b.drv.run = true) :
    toneOn p f b = (b, .raised .startWhileRunning) := by
  simp only [toneOn, guarded_initialized ht, drvStart_running hr, Ran.thenOk_raised]

/-- On a stopped channel ON is the update of the started one, with the tone stored after an `OK` (R133). -/
theorem toneOn_stopped {b : Block} (p : Params) (f : Nat) (ht : b.tone.tcInit = true) (hr : b.drv.run = false) :
    toneOn p f b = (drvUpdate p f p.defaultDuty b.startRun).onOk fun b =>
      (b.withToneFreq (BitVec.ofNat 32 f)).withToneDuty (BitVec.ofNat 8 p.defaultDuty) := by
  simp only [toneOn, guarded_initialized ht, drvStart_stopped hr, Ran.thenOk_ok]

theorem toneOn_invalid {p : Params} {f : Nat} {b : Block} (ht : b.tone.tcInit = true) (hr : b.drv.run = false)
    (hf : f > b.chan.clockHz.toNat) : toneOn p f b = (b.startRun, .invalidParameter) := by
  rw [toneOn_stopped p f ht hr, drvUpdate_invalid (b := b.startRun) (.inl hf), Ran.onOk_invalidParameter]

theorem toneOn_divisorZero {p : Params} {f : Nat} {b : Block} (ht : b.tone.tcInit = true) (hr : b.drv.run = false)
    (hf : f ≤ b.chan.clockHz.toNat) (h : f = 0 ∨ b.chan.clockHz.toNat < 2 * p.tickRate) :
    toneOn p f b = (b.startRun, .raised .divisorZero) := by
  rw [toneOn_stopped p f ht hr, drvUpdate_divisorZero (b := b.startRun) hf p.defaultDuty_range.2 h, Ran.onOk_raised]

theorem toneOn_ok {p : Params} {f : Nat} {b : Block} (ht : b.tone.tcInit = true) (hr : b.drv.run = false)
    (h : CalcReady p b.chan.clockHz.toNat f p.defaultDuty) :
    toneOn p f b =
      (((calcPreload p f p.defaultDuty b.startRun).withToneFreq (BitVec.ofNat 32 f)).withToneDuty
        (BitVec.ofNat 8 p.defaultDuty), .ok) := by
  rw [toneOn_stopped p f ht hr, drvUpdate_ok (b := b.startRun) h, Ran.onOk_ok]

/-- Settles O20: the guard, `drv_start`, and the three endings of the update on the started channel. -/
theorem onCommand : Obligations.OnCommand := by
  unfold Obligations.OnCommand
  intro s p clk f started
  refine ⟨fun huninit => ?uninitialized, fun hinit hrun => ?running, fun hinit hrun hf => ?invalid,
    fun hinit hrun hf hzero => ?divisorZero, fun hinit hrun hready => ?ok⟩
  case uninitialized => exact exec_notInitialized (toneOn_uninitialized huninit)
  case running => exact exec_raises (toneOn_running _ _ hinit hrun)
  case invalid => exact exec_invalidParameter (toneOn_invalid hinit hrun hf)
  case divisorZero => exact exec_raises (toneOn_divisorZero hinit hrun hf hzero)
  case ok =>
    refine ⟨(calcPreload p f p.defaultDuty s.block.startRun).drv,
      calcPreload_preloaded p f p.defaultDuty_range.2 s.block.startRun,
      calcPreload_same p f p.defaultDuty s.block.startRun, ?_⟩
    have hop := toneOn_ok (f := freqOperand s.block) hinit hrun hready
    rw [ofNat_freqOperand] at hop
    exact exec_ok hop

/-! ### OFF -/

theorem toneOff_uninitialized {b : Block} (ht : b.tone.tcInit = false) : toneOff b = (b, .notInitialized) :=
  guarded_uninitialized ht _

theorem toneOff_initialized {b : Block} (ht : b.tone.tcInit = true) : toneOff b = (b.stopRun, .ok) :=
  guarded_initialized ht _

/-- Settles O21: the guard, then `RUN` cleared whatever it was. -/
theorem offCommand : Obligations.OffCommand := by
  unfold Obligations.OffCommand
  intro s
  refine ⟨fun huninit => ?uninitialized, fun hinit => ?initialized⟩
  case uninitialized => exact exec_notInitialized (toneOff_uninitialized huninit)
  case initialized => exact exec_ok (toneOff_initialized hinit)

/-! ### UPDATE_FREQ -/

/-- Past the guard UPDATE_FREQ is the update with the stored duty, the frequency stored after an `OK` (R135). -/
theorem toneUpdateFreq_initialized {b : Block} (p : Params) (f : Nat) (ht : b.tone.tcInit = true) :
    toneUpdateFreq p f b =
      (drvUpdate p f b.tone.toneDuty.toNat b).onOk fun b => b.withToneFreq (BitVec.ofNat 32 f) :=
  guarded_initialized ht _

theorem toneUpdateFreq_invalid {p : Params} {f : Nat} {b : Block} (ht : b.tone.tcInit = true)
    (h : f > b.chan.clockHz.toNat ∨ b.tone.toneDuty.toNat > 100) :
    toneUpdateFreq p f b = (b, .invalidParameter) := by
  rw [toneUpdateFreq_initialized p f ht, drvUpdate_invalid h, Ran.onOk_invalidParameter]

theorem toneUpdateFreq_divisorZero {p : Params} {f : Nat} {b : Block} (ht : b.tone.tcInit = true)
    (hf : f ≤ b.chan.clockHz.toNat) (hd : b.tone.toneDuty.toNat ≤ 100)
    (h : f = 0 ∨ b.chan.clockHz.toNat < 2 * p.tickRate) : toneUpdateFreq p f b = (b, .raised .divisorZero) := by
  rw [toneUpdateFreq_initialized p f ht, drvUpdate_divisorZero hf hd h, Ran.onOk_raised]

theorem toneUpdateFreq_ok {p : Params} {f : Nat} {b : Block} (ht : b.tone.tcInit = true)
    (h : CalcReady p b.chan.clockHz.toNat f b.tone.toneDuty.toNat) :
    toneUpdateFreq p f b = ((calcPreload p f b.tone.toneDuty.toNat b).withToneFreq (BitVec.ofNat 32 f), .ok) := by
  rw [toneUpdateFreq_initialized p f ht, drvUpdate_ok h, Ran.onOk_ok]

/-- Settles O22: the guard, then the three endings of the update at the stored duty. -/
theorem updateFreqCommand : Obligations.UpdateFreqCommand := by
  unfold Obligations.UpdateFreqCommand
  intro s p clk f d
  refine ⟨fun huninit => ?uninitialized, fun hinit hbad => ?invalid, fun hinit hf hd hzero => ?divisorZero,
    fun hinit hready => ?ok⟩
  case uninitialized => exact exec_notInitialized (toneUpdateFreq_uninitialized huninit)
  case invalid => exact exec_invalidParameter (toneUpdateFreq_invalid hinit hbad)
  case divisorZero => exact exec_raises (toneUpdateFreq_divisorZero hinit hf hd hzero)
  case ok =>
    have ⟨_, hd, _⟩ := hready
    refine ⟨(calcPreload p f d s.block).drv, calcPreload_preloaded p f hd s.block, calcPreload_same p f d s.block,
      ?_⟩
    have hop := toneUpdateFreq_ok (f := freqOperand s.block) hinit hready
    rw [ofNat_freqOperand] at hop
    exact exec_ok hop

/-! ### UNMUTE -/

/-- Settles O24: UNMUTE is `setDuty` at `DEFAULT_DUTY`, so its endings are those of `setDuty`. -/
theorem unmuteCommand : Obligations.UnmuteCommand := by
  unfold Obligations.UnmuteCommand
  intro s p clk f
  have hduty : p.defaultDuty ≤ 100 := p.defaultDuty_range.2
  refine ⟨fun huninit => ?uninitialized, fun hinit hf => ?invalid, fun hinit hf hzero => ?divisorZero,
    fun hinit hready => ?ok⟩
  case uninitialized => exact exec_notInitialized (setDuty_uninitialized huninit)
  case invalid => exact exec_invalidParameter (setDuty_invalid hinit (.inl hf))
  case divisorZero => exact exec_raises (setDuty_divisorZero hinit hf hduty hzero)
  case ok =>
    exact ⟨(calcPreload p f p.defaultDuty s.block).drv, calcPreload_preloaded p f hduty s.block,
      calcPreload_same p f p.defaultDuty s.block, exec_ok (setDuty_ok hinit hready)⟩

end Sys2Proof.Machine

/-! PROOFS. The Engine's commands (spec/42_cadence_engine.md): the distance conversion as the floor of the exact product
(R162), PLAY and PAUSE from the endings of their operations (R163 to R169), and ONTICK outside of playing (R170, R171,
R179). -/

namespace Sys2Proof.Machine

/-! ### The distance conversion -/

/-- The integer division of the model is the floor of the rational product (R162). -/
theorem scaledFloor_eq_floor (scale : Nat) (n : Int) :
    scaledFloor scale n = Int.floor ((n : ℚ) / 2 ^ 149 * scale) := by
  have exact_quotient : (n : ℚ) / 2 ^ 149 * scale = ((n * scale : Int) : ℚ) / ((2 ^ 149 : Nat) : ℚ) := by
    push_cast
    ring
  rw [exact_quotient, Rat.floor_intCast_div_natCast, scaledFloor]
  norm_cast

/-- The number that the units stand for is negative exactly when they are. -/
theorem units_div_neg_iff (n : Int) : (n : ℚ) / 2 ^ 149 < 0 ↔ n < 0 := by
  rw [div_lt_iff₀ (by positivity), zero_mul, Int.cast_lt_zero]

theorem distToTicks_not_finite {p : Params} {w : Word}
    (h : value32 w = .nan ∨ value32 w = .posInf ∨ value32 w = .negInf) :
    distToTicks p w = .error .distanceRange := by
  obtain h | h | h := h <;> simp only [distToTicks, h]

theorem distToTicks_negative {p : Params} {w : Word} {n : Int} (hw : value32 w = .finite n) (hn : n < 0) :
    distToTicks p w = .error .distanceRange := by
  simp only [distToTicks, hw, hn, if_true]

theorem distToTicks_above {p : Params} {w : Word} {n : Int} (hw : value32 w = .finite n)
    (h : scaledFloor p.beepScale n > wordMax) : distToTicks p w = .error .distanceRange := by
  simp only [distToTicks, hw, h, if_true, ite_self]

theorem distToTicks_ok {p : Params} {w : Word} {n : Int} (hw : value32 w = .finite n) (hn : 0 ≤ n)
    (h : scaledFloor p.beepScale n ≤ wordMax) :
    distToTicks p w = .ok (BitVec.ofInt 32 (scaledFloor p.beepScale n)) := by
  simp only [distToTicks, hw, not_lt.2 hn, not_lt.2 h, if_false]

theorem scaledFloor_nonneg (scale : Nat) {n : Int} (hn : 0 ≤ n) : 0 ≤ scaledFloor scale n :=
  Int.ediv_nonneg (Int.mul_nonneg hn (Int.natCast_nonneg scale)) (by decide)

/-- A tick count within `u32` is held by its word. -/
theorem toNat_ofInt_of_le_wordMax {v : Int} (h0 : 0 ≤ v) (h : v ≤ wordMax) :
    ((BitVec.ofInt 32 v).toNat : Int) = v := by
  have hlt : v < 2 ^ 32 := by
    have hmax : (wordMax : Int) = 2 ^ 32 - 1 := rfl
    omega
  rw [BitVec.toNat_ofInt]
  omega

/-- Settles O29: `scaledFloor` is the rational floor, so the model's bounds are those of the rule. -/
theorem distanceIsTheExactFloor : Obligations.DistanceIsTheExactFloor := by
  unfold Obligations.DistanceIsTheExactFloor
  intro p w
  refine ⟨distToTicks_not_finite, ?_⟩
  intro n hw v
  have hsign : v < 0 ↔ n < 0 := units_div_neg_iff n
  have hfloor : Int.floor (v * p.beepScale) = scaledFloor p.beepScale n := (scaledFloor_eq_floor _ n).symm
  rw [hfloor]
  refine ⟨fun hneg => ?negative, fun _ habove => ?above, fun hnonneg hfits => ?ok⟩
  case negative => exact distToTicks_negative hw (hsign.1 hneg)
  case above => exact distToTicks_above hw habove
  case ok =>
    have hn : 0 ≤ n := not_lt.1 (mt hsign.2 (not_lt.2 hnonneg))
    exact ⟨_, distToTicks_ok hw hn hfits, toNat_ofInt_of_le_wordMax (scaledFloor_nonneg _ hn) hfits⟩

/-! ### PLAY: the guard and the distance -/

theorem play_distanceFault {p : Params} {w : Word} {b : Block} {c : Fault} (ht : b.tone.tcInit = true)
    (hd : distToTicks p w = .error c) : play p w b = (b, .raised .distanceRange) := by
  rw [distToTicks_error hd] at hd
  simp only [play, guarded_initialized ht, hd]

/-- Settles O30: the guard, then the conversion, which has one cause only. -/
theorem playGuardAndDistanceFault : Obligations.PlayGuardAndDistanceFault := by
  unfold Obligations.PlayGuardAndDistanceFault
  intro s
  refine ⟨fun huninit => ?uninitialized, fun c hinit hd => ?distance⟩
  case uninitialized => exact exec_notInitialized (play_uninitialized huninit)
  case distance => exact exec_raises (play_distanceFault hinit hd)

/-! ### The first PLAY -/

/-- A first PLAY is the first-call part, with the bounds written after an `OK` (R165, R168). -/
theorem play_first {p : Params} {w off : Word} {b : Block} (ht : b.tone.tcInit = true) (hc : b.cad.ceInit = false)
    (hd : distToTicks p w = .ok off) :
    play p w b = (playFirst p b).thenOk fun b => (b.withBounds p.onTicksBase off, .ok) := by
  simp only [play, guarded_initialized ht, hd, hc, Bool.false_eq_true, if_false]

theorem playFirst_running {p : Params} {b : Block} (ht : b.tone.tcInit = true) (hr : b.drv.run = true) :
    playFirst p b = (b, .raised .startWhileRunning) := by
  rw [playFirst, toneOn_running _ _ ht hr, Ran.thenOk_raised]

theorem playFirst_invalid {p : Params} {b : Block} (ht : b.tone.tcInit = true) (hr : b.drv.run = false)
    (hf : p.baseFreqHz > b.chan.clockHz.toNat) : playFirst p b = (b.startRun, .invalidParameter) := by
  rw [playFirst, toneOn_invalid ht hr hf, Ran.thenOk_invalidParameter]

theorem playFirst_divisorZero {p : Params} {b : Block} (ht : b.tone.tcInit = true) (hr : b.drv.run = false)
    (hf : p.baseFreqHz ≤ b.chan.clockHz.toNat) (hclk : b.chan.clockHz.toNat < 2 * p.tickRate) :
    playFirst p b = (b.startRun, .raised .divisorZero) := by
  rw [playFirst, toneOn_divisorZero ht hr hf (.inr hclk), Ran.thenOk_raised]

/-- With a ready calculator no other ending of `playFirst_cases` is left. -/
theorem playFirst_ok {p : Params} {b : Block} (ht : b.tone.tcInit = true) (hr : b.drv.run = false)
    (h : CalcReady p b.chan.clockHz.toNat p.baseFreqHz p.defaultDuty) :
    playFirst p b = (playedFirst p b, .ok) := by
  obtain ⟨hf, _, _, hclk⟩ := h
  obtain ⟨hr', _⟩ | ⟨_, ⟨hf', _⟩ | ⟨⟨_, hclk'⟩, _⟩ | ⟨_, he⟩⟩ := playFirst_cases p ht
  · rw [hr] at hr'
    contradiction
  · omega
  · omega
  · exact he

/-- A first PLAY that succeeds: the tone on and muted, the Engine initialized, the bounds written. -/
theorem play_first_ok {p : Params} {w off : Word} {b : Block} (ht : b.tone.tcInit = true)
    (hc : b.cad.ceInit = false) (hr : b.drv.run = false) (hd : distToTicks p w = .ok off)
    (h : CalcReady p b.chan.clockHz.toNat p.baseFreqHz p.defaultDuty) :
    play p w b = ((playedFirst p b).withBounds p.onTicksBase off, .ok) := by
  rw [play_first ht hc hd, playFirst_ok ht hr h, Ran.thenOk_ok]

/-- The preload registers after a first PLAY are those of its MUTE. -/
theorem playedFirst_preloaded (p : Params) (b : Block) :
    Preloaded p b.chan.clockHz.toNat p.baseFreqHz 0 (playedFirst p b).drv :=
  calcPreload_preloaded p p.baseFreqHz (Nat.zero_le 100)
    ((calcPreload p p.baseFreqHz p.defaultDuty b.startRun).withToneFreq (BitVec.ofNat 32 p.baseFreqHz))

/-- The rest of the applicator is as `drv_start` leaves it: neither of the two updates writes it. -/
theorem playedFirst_same (p : Params) (b : Block) : SameButPreload b.startRun.drv (playedFirst p b).drv :=
  ⟨rfl, rfl, rfl, rfl⟩

/-- A duty cycle of 0 gives a pulse of 0 (R109). -/
theorem Preloaded.pulsePre_eq_zero {p : Params} {clk f : Nat} {r : DriverState} (h : Preloaded p clk f 0 r) :
    r.pulsePre = 0 := by
  obtain ⟨_, _, hpulse⟩ := h
  apply BitVec.eq_of_toNat_eq
  rw [hpulse, Nat.mul_zero]
  rfl

/-- Settles O31: the ending of `play_first_ok`, with the registers of its MUTE on the started channel. -/
theorem firstPlayStartsMuted : Obligations.FirstPlayStartsMuted := by
  unfold Obligations.FirstPlayStartsMuted
  intro s off p clk hinit hfirst hstopped hd hready
  have hpre := playedFirst_preloaded p s.block
  obtain ⟨hrun, hpsc, hperiod, hpulse⟩ := playedFirst_same p s.block
  have hfreq : (BitVec.ofNat 32 p.baseFreqHz).toNat = p.baseFreqHz := by
    obtain ⟨hf, _⟩ := hready
    rw [BitVec.toNat_ofNat, Nat.mod_eq_of_lt (lt_of_le_of_lt hf s.block.chan.clockHz.isLt)]
  exact ⟨(playedFirst p s.block).drv,
    { s.block.tone with toneFreq := BitVec.ofNat 32 p.baseFreqHz, toneDuty := 0 },
    hpre, hpre.pulsePre_eq_zero, hrun, hpsc, hperiod, hpulse, hinit, hfreq, rfl,
    exec_ok (play_first_ok hinit hfirst hstopped hd hready)⟩

/-- Settles O32: the endings of the first-call part; the conditions left make the calculator ready. -/
theorem firstPlayThatFails : Obligations.FirstPlayThatFails := by
  unfold Obligations.FirstPlayThatFails
  intro s off p clk started hinit hfirst hd
  have hplay : opOf .play p s.env.pins s.block = _ := play_first hinit hfirst hd
  refine ⟨fun hrun => ?running, fun hstopped hf => ?invalid, fun hstopped hf hclk => ?divisorZero,
    fun hstopped hf hclk => ?ok⟩
  case running =>
    apply exec_raises
    rw [hplay, playFirst_running hinit hrun, Ran.thenOk_raised]
  case invalid =>
    apply exec_invalidParameter (b := s.block.startRun)
    rw [hplay, playFirst_invalid hinit hstopped hf, Ran.thenOk_invalidParameter]
  case divisorZero =>
    apply exec_raises (b := s.block.startRun)
    rw [hplay, playFirst_divisorZero hinit hstopped hf hclk, Ran.thenOk_raised]
  case ok =>
    have hready : CalcReady p clk p.baseFreqHz p.defaultDuty :=
      ⟨hf, p.defaultDuty_range.2, p.baseFreqHz_pos, hclk⟩
    exact ⟨_, exec_ok (play_first_ok hinit hfirst hstopped hd hready), rfl, rfl, rfl⟩

/-! ### A later PLAY, and every PLAY that succeeds -/

theorem play_later {p : Params} {w off : Word} {b : Block} (ht : b.tone.tcInit = true) (hc : b.cad.ceInit = true)
    (hd : distToTicks p w = .ok off) : play p w b = (b.withBounds p.onTicksBase off, .ok) := by
  simp only [play, guarded_initialized ht, hd, hc, if_true, Ran.thenOk_ok]

/-- A chain that ends in `OK` is its last call, on the block that the calls before it left. -/
theorem Ran.thenOk_eq_of_reply_ok {m : Ran} {k : Block → Ran} (h : (m.thenOk k).2 = .ok) :
    m.thenOk k = k m.1 := by
  obtain ⟨b, _ | _ | _ | c⟩ := m
  case ok => rfl
  all_goals exact absurd h (by simp)

/-- Whatever a successful PLAY did before, its last write is that of the bounds (R167). -/
theorem play_eq_of_reply_ok {p : Params} {w off : Word} {b : Block} (hd : distToTicks p w = .ok off)
    (h : (play p w b).2 = .ok) : ∃ b', play p w b = (Block.withBounds b' p.onTicksBase off, .ok) := by
  cases ht : b.tone.tcInit with
  | false =>
    rw [play_uninitialized ht] at h
    contradiction
  | true =>
    cases hc : b.cad.ceInit with
    | true => exact ⟨b, play_later ht hc hd⟩
    | false =>
      rw [play_first ht hc hd] at h ⊢
      exact ⟨_, Ran.thenOk_eq_of_reply_ok h⟩

theorem Reply.result_eq_ok_iff (r : Reply) : r.result = .ok ↔ r = .ok := by
  cases r <;> simp [Reply.result]

/-- A command whose `RESULT` is `OK` is an operation that ended in `OK`. -/
theorem opOf_reply_ok {i : Instr} {s t : State} (h : exec i s = .next t) (hok : t.block.host.result = .ok) :
    (opOf i s.env.params s.env.pins s.block).2 = .ok := by
  rwa [exec_eq_next h, Ran.asCommand_result, Reply.result_eq_ok_iff] at hok

/-- Settles O33: a later PLAY writes the bounds alone, and any successful one writes them last. -/
theorem laterPlayWritesTheBounds : Obligations.LaterPlayWritesTheBounds := by
  unfold Obligations.LaterPlayWritesTheBounds
  intro s off hd
  refine ⟨fun hinit hlater => ?later, fun t hexec hok => ?successful⟩
  case later => exact exec_ok (play_later hinit hlater hd)
  case successful =>
    obtain ⟨b', hplay⟩ := play_eq_of_reply_ok hd (opOf_reply_ok hexec hok)
    have hop : opOf .play s.env.params s.env.pins s.block = _ := hplay
    rw [exec_eq_next hexec, hop]
    exact ⟨rfl, rfl, rfl⟩

/-! ### PAUSE -/

/-- Settles O34: the Engine's guard, then the endings of `setDuty` at duty 0 on the block that the two writes left. -/
theorem pauseCommand : Obligations.PauseCommand := by
  unfold Obligations.PauseCommand
  intro s p clk f halted
  refine ⟨fun hidle => ?idle, fun hengine huninit => ?uninitialized, fun hengine hinit hf => ?invalid,
    fun hengine hinit hf hzero => ?divisorZero, fun hengine hinit hready => ?ok⟩
  case idle => exact exec_notInitialized (pause_uninitialized hidle)
  case uninitialized =>
    exact exec_notInitialized ((pause_initialized hengine).trans (setDuty_uninitialized huninit))
  case invalid =>
    exact exec_invalidParameter ((pause_initialized hengine).trans (setDuty_invalid hinit (.inl hf)))
  case divisorZero =>
    exact exec_raises ((pause_initialized hengine).trans (setDuty_divisorZero hinit hf (Nat.zero_le 100) hzero))
  case ok =>
    have hpre := calcPreload_preloaded p f (Nat.zero_le 100) s.block.enterPause
    exact ⟨_, hpre, hpre.pulsePre_eq_zero, calcPreload_same p f 0 s.block.enterPause,
      exec_ok ((pause_initialized hengine).trans (setDuty_ok hinit hready))⟩

/-! ### ONTICK outside of playing -/

/-- Two commands whose operations agree on the block answer the same. -/
theorem exec_congr {i j : Instr} {s : State}
    (h : opOf i s.env.params s.env.pins s.block = opOf j s.env.params s.env.pins s.block) : exec i s = exec j s := by
  rw [exec_eq_command, exec_eq_command, command, command, h]

/-- Settles O36: no write before the first PLAY, and MUTE's own operation in `Paused`. -/
theorem idleAndPausedTicks : Obligations.IdleAndPausedTicks := by
  unfold Obligations.IdleAndPausedTicks
  intro s
  refine ⟨fun hidle => ?idle, fun hengine hpaused => ?paused⟩
  case idle => exact exec_ok (ontick_uninitialized hidle)
  case paused => exact exec_congr (ontick_paused hengine hpaused)

end Sys2Proof.Machine

/-! PROOFS. Which commands end with `NotInitialized`, `InvalidParameter` and `StartWhileRunning`, over all commands
(spec/60_exceptions.md R202, R203, R207): first when each operation ends so, then when each command does, then from
`RESULT` and the fault record back to the ending. -/

namespace Sys2Proof.Machine

/-! ### When an operation ends so -/

/-- The operation ends with `NotInitialized`, with `InvalidParameter` and with the fault `StartWhileRunning` exactly
under these three conditions. -/
structure EndsExactly (m : Ran) (unready invalid running : Prop) : Prop where
  notInitialized : m.2 = .notInitialized ↔ unready
  invalidParameter : m.2 = .invalidParameter ↔ invalid
  startWhileRunning : m.2 = .raised .startWhileRunning ↔ running

/-- The guard is one more way to `NotInitialized`, and comes before every other ending (R131). -/
theorem guarded_ends {b : Block} {k : Block → Ran} {invalid running : Prop}
    (h : EndsExactly (k b) False invalid running) :
    EndsExactly (guarded b k) (b.tone.tcInit = false) (b.tone.tcInit = true ∧ invalid)
      (b.tone.tcInit = true ∧ running) := by
  obtain ⟨hn, hi, hr⟩ := h
  cases ht : b.tone.tcInit with
  | false =>
    rw [guarded_uninitialized ht]
    constructor <;> simp
  | true =>
    rw [guarded_initialized ht]
    constructor <;> simp [hn, hi, hr]

theorem drvStart_ends (b : Block) : EndsExactly (drvStart b) False False (b.drv.run = true) := by
  cases hr : b.drv.run with
  | true =>
    rw [drvStart_running hr]
    constructor <;> simp
  | false =>
    rw [drvStart_stopped hr]
    constructor <;> simp

theorem drvStop_ends (b : Block) : EndsExactly (drvStop b) False False False := by
  constructor <;> simp [drvStop]

theorem drvUpdate_ends (p : Params) (f d : Nat) (b : Block) :
    EndsExactly (drvUpdate p f d b) False (f > b.chan.clockHz.toNat ∨ d > 100) False := by
  obtain ⟨hbad, h⟩ | ⟨⟨hf, hd, _⟩, h⟩ | ⟨⟨hf, hd, _⟩, h⟩ := drvUpdate_cases p f d b <;> rw [h]
  · constructor <;> simp [hbad]
  · constructor <;> simp [hf, hd]
  · constructor <;> simp [hf, hd]

/-- Writes made after an `OK` do not change how the operation ends. -/
theorem EndsExactly.onOk {m : Ran} {unready invalid running : Prop} (h : EndsExactly m unready invalid running)
    (w : Block → Block) : EndsExactly (m.onOk w) unready invalid running := by
  have hreply : (m.onOk w).2 = m.2 := by
    obtain ⟨b, _ | _ | _ | c⟩ := m <;> rfl
  constructor
  · rw [hreply, h.notInitialized]
  · rw [hreply, h.invalidParameter]
  · rw [hreply, h.startWhileRunning]

theorem toneInit_ends (pins : Pins) (b : Block) : EndsExactly (toneInit pins b) False False False := by
  cases ht : b.tone.tcInit with
  | true =>
    rw [toneInit_repeated pins ht]
    constructor <;> simp
  | false =>
    by_cases hclk : pins.clkHzIn = 0
    · rw [toneInit_clockZero ht hclk]
      constructor <;> simp
    · rw [toneInit_ok ht hclk]
      constructor <;> simp

theorem toneUpdateFreq_ends (p : Params) (f : Nat) (b : Block) :
    EndsExactly (toneUpdateFreq p f b) (b.tone.tcInit = false)
      (b.tone.tcInit = true ∧ (f > b.chan.clockHz.toNat ∨ b.tone.toneDuty.toNat > 100))
      (b.tone.tcInit = true ∧ False) :=
  guarded_ends ((drvUpdate_ends p f b.tone.toneDuty.toNat b).onOk _)

theorem setDuty_ends (p : Params) (d : Nat) (b : Block) :
    EndsExactly (setDuty p d b) (b.tone.tcInit = false)
      (b.tone.tcInit = true ∧ (b.tone.toneFreq.toNat > b.chan.clockHz.toNat ∨ d > 100))
      (b.tone.tcInit = true ∧ False) :=
  guarded_ends ((drvUpdate_ends p b.tone.toneFreq.toNat d b).onOk _)

theorem toneOn_ends (p : Params) (f : Nat) (b : Block) :
    EndsExactly (toneOn p f b) (b.tone.tcInit = false)
      (b.tone.tcInit = true ∧ b.drv.run = false ∧ f > b.chan.clockHz.toNat)
      (b.tone.tcInit = true ∧ b.drv.run = true) := by
  obtain ⟨ht, h⟩ | ⟨ht, ⟨hr, h⟩ | ⟨hr, ⟨hf, h⟩ | ⟨⟨hf, _⟩, h⟩ | ⟨⟨hf, _⟩, h⟩⟩⟩ := toneOn_cases p f b <;> rw [h]
  · constructor <;> simp [ht]
  · constructor <;> simp [ht, hr]
  · constructor <;> simp [ht, hr, hf]
  · constructor <;> simp [ht, hr, hf]
  · constructor <;> simp [ht, hr, hf]

theorem play_ends (p : Params) (w : Word) (b : Block) :
    EndsExactly (play p w b) (b.tone.tcInit = false)
      (b.tone.tcInit = true ∧ b.cad.ceInit = false ∧ b.drv.run = false ∧ p.baseFreqHz > b.chan.clockHz.toNat ∧
        ∃ off, distToTicks p w = .ok off)
      (b.tone.tcInit = true ∧ b.drv.run = true ∧ b.cad.ceInit = false ∧ ∃ off, distToTicks p w = .ok off) := by
  obtain ⟨ht, h⟩ | ⟨ht, ⟨c, hd, h⟩ | ⟨off, hd, ⟨hc, h⟩ |
    ⟨hc, ⟨hr, h⟩ | ⟨hr, ⟨hf, h⟩ | ⟨⟨hf, _⟩, h⟩ | ⟨⟨hf, _⟩, h⟩⟩⟩⟩⟩ := play_cases p w b <;> rw [h]
  · constructor <;> simp [ht]
  · constructor <;> simp [ht, hd, distToTicks_error hd]
  · constructor <;> simp [ht, hc]
  · constructor <;> simp [ht, hc, hr, hd]
  · constructor <;> simp [ht, hc, hr, hd, hf]
  · constructor <;> simp [ht, hr, hf]
  · constructor <;> simp [ht, hr, hf]

/-- In a state that meets the invariant PAUSE fails by its own guard alone: after the first PLAY its update passes
(R166, R169). -/
theorem pause_ends_of_inv {s : State} (hi : Inv s) :
    EndsExactly (pause s.env.params s.block) (s.block.cad.ceInit = false) False False := by
  cases hc : s.block.cad.ceInit with
  | false =>
    rw [pause_uninitialized hc]
    constructor <;> simp
  | true =>
    rw [pause_initialized hc, setDuty_ok (b := s.block.enterPause) (hi.engine hc) (calcReady_zero (hi.ready hc))]
    constructor <;> simp

/-- In a state that meets the invariant a tick ends with none of the three (R178). -/
theorem ontick_ends_of_inv {s : State} (hi : Inv s) :
    EndsExactly (ontick s.env.params s.block) False False False := by
  obtain ⟨b, hb, _⟩ := ontick_of_inv hi
  rw [hb]
  constructor <;> simp

/-! ### MUTE, UNMUTE, PAUSE and a tick start no channel -/

theorem setDuty_not_startWhileRunning (p : Params) (d : Nat) (b : Block) :
    (setDuty p d b).2 ≠ .raised .startWhileRunning := by
  simp [(setDuty_ends p d b).startWhileRunning]

theorem pause_not_startWhileRunning (p : Params) (b : Block) : (pause p b).2 ≠ .raised .startWhileRunning := by
  cases hc : b.cad.ceInit with
  | false => simp [pause_uninitialized hc]
  | true =>
    rw [pause_initialized hc]
    exact setDuty_not_startWhileRunning _ _ _

theorem Ran.unlessRaised_reply (m : Ran) (w : Block → Block) : (m.unlessRaised w).2 = m.2 := by
  obtain ⟨b, _ | _ | _ | c⟩ := m <;> rfl

/-- Every call of a tick is a MUTE or an UNMUTE (R178). -/
theorem ontick_not_startWhileRunning (p : Params) (b : Block) : (ontick p b).2 ≠ .raised .startWhileRunning := by
  simp only [ontick, toneMute_eq, toneUnmute_eq]
  split_ifs
  · simp
  · exact setDuty_not_startWhileRunning _ _ _
  · cases tickCase b.cad with
    | noStep => simp
    | recover | stayAudible | flipMuted | stayMuted | flipAudible =>
      rw [Ran.unlessRaised_reply]
      exact setDuty_not_startWhileRunning _ _ _

/-! ### When a command ends with `NotInitialized` -/

/-- The condition of R202: a guarded command before INIT, or PAUSE before the first PLAY. -/
def FailsGuard (i : Instr) (b : Block) : Prop :=
  (i ≠ .init ∧ i ≠ .onTick ∧ i ≠ .pause ∧ b.tone.tcInit = false) ∨ (i = .pause ∧ b.cad.ceInit = false)

theorem opOf_of_failsGuard {i : Instr} {b : Block} (p : Params) (pins : Pins) (h : FailsGuard i b) :
    opOf i p pins b = (b, .notInitialized) := by
  obtain ⟨hinit, htick, hpause, ht⟩ | ⟨rfl, hc⟩ := h
  · cases i with
    | init | onTick | pause => contradiction
    | drvStart | drvStop | drvUpdate => exact guarded_uninitialized ht _
    | on => exact toneOn_uninitialized ht
    | off => exact toneOff_uninitialized ht
    | updateFreq => exact toneUpdateFreq_uninitialized ht
    | mute | unmute => exact setDuty_uninitialized ht
    | play => exact play_uninitialized ht
  · exact pause_uninitialized hc

theorem opOf_notInitialized_iff {s : State} (hi : Inv s) (i : Instr) :
    (opOf i s.env.params s.env.pins s.block).2 = .notInitialized ↔ FailsGuard i s.block := by
  cases i with
  | drvStart => simp [FailsGuard, opOf, (guarded_ends (drvStart_ends s.block)).notInitialized]
  | drvStop => simp [FailsGuard, opOf, (guarded_ends (drvStop_ends s.block)).notInitialized]
  | drvUpdate => simp [FailsGuard, opOf, (guarded_ends (drvUpdate_ends _ _ _ s.block)).notInitialized]
  | init => simp [FailsGuard, opOf, (toneInit_ends _ s.block).notInitialized]
  | on => simp [FailsGuard, opOf, (toneOn_ends _ _ s.block).notInitialized]
  | off => simp [FailsGuard, opOf, toneOff, (guarded_ends (drvStop_ends s.block)).notInitialized]
  | updateFreq => simp [FailsGuard, opOf, (toneUpdateFreq_ends _ _ s.block).notInitialized]
  | mute => simp [FailsGuard, opOf, toneMute_eq, (setDuty_ends _ _ s.block).notInitialized]
  | unmute => simp [FailsGuard, opOf, toneUnmute_eq, (setDuty_ends _ _ s.block).notInitialized]
  | play => simp [FailsGuard, opOf, (play_ends _ _ s.block).notInitialized]
  | pause => simp [FailsGuard, opOf, (pause_ends_of_inv hi).notInitialized]
  | onTick => simp [FailsGuard, opOf, (ontick_ends_of_inv hi).notInitialized]

/-! ### When a command ends with `InvalidParameter` -/

/-- The condition of R203: the operand, or in a first PLAY the base frequency, fails the validity check of an update
that the command reaches. -/
def FailsValidity (p : Params) (i : Instr) (b : Block) : Prop :=
  b.tone.tcInit = true ∧
    ((i = .drvUpdate ∧ (b.host.arg0.toNat > b.chan.clockHz.toNat ∨ b.host.arg1.toNat > 100)) ∨
     (i = .on ∧ b.drv.run = false ∧ b.host.arg0.toNat > b.chan.clockHz.toNat) ∨
     (i = .updateFreq ∧ b.host.arg0.toNat > b.chan.clockHz.toNat) ∨
     (i = .play ∧ b.cad.ceInit = false ∧ b.drv.run = false ∧ p.baseFreqHz > b.chan.clockHz.toNat ∧
       ∃ off, distToTicks p b.host.arg0 = .ok off))

/-- DRV_UPDATE and UPDATE_FREQ leave the block; ON and a first PLAY leave it started (R203). -/
theorem opOf_of_failsValidity {p : Params} {i : Instr} {b : Block} (pins : Pins) (h : FailsValidity p i b) :
    (i = .drvUpdate ∨ i = .updateFreq) ∧ opOf i p pins b = (b, .invalidParameter) ∨
    (i = .on ∨ i = .play) ∧ opOf i p pins b = (b.startRun, .invalidParameter) := by
  obtain ⟨ht, ⟨rfl, hbad⟩ | ⟨rfl, hr, hf⟩ | ⟨rfl, hf⟩ | ⟨rfl, hc, hr, hf, off, hd⟩⟩ := h
  · exact .inl ⟨.inl rfl, (opOf_drvUpdate_initialized p pins ht).trans (drvUpdate_invalid hbad)⟩
  · exact .inr ⟨.inl rfl, toneOn_invalid ht hr hf⟩
  · exact .inl ⟨.inr rfl, toneUpdateFreq_invalid ht (.inl hf)⟩
  · have hplay : opOf .play p pins b = _ := play_first ht hc hd
    rw [hplay, playFirst_invalid ht hr hf]
    exact .inr ⟨.inr rfl, rfl⟩

/-- The stored duty of a state that meets the invariant passes the validity check (R46 (a)). -/
theorem Inv.toneDuty_le {s : State} (hi : Inv s) : s.block.tone.toneDuty.toNat ≤ 100 := by
  have hrange := s.env.params.defaultDuty_range
  have hduty := hi.duty
  omega

/-- In a state that meets the invariant the stored frequency passes the validity check, so MUTE and UNMUTE do not end
with `InvalidParameter` (R203). -/
theorem setDuty_not_invalidParameter_of_inv {s : State} (hi : Inv s) (p : Params) {d : Nat} (hd : d ≤ 100) :
    (setDuty p d s.block).2 ≠ .invalidParameter := by
  rw [Ne, (setDuty_ends p d s.block).invalidParameter]
  rintro ⟨ht, hbad⟩
  have hfreq := hi.freq ht
  omega

theorem opOf_invalidParameter_iff {s : State} (hi : Inv s) (i : Instr) :
    (opOf i s.env.params s.env.pins s.block).2 = .invalidParameter ↔ FailsValidity s.env.params i s.block := by
  have hduty : s.env.params.defaultDuty ≤ 100 := s.env.params.defaultDuty_range.2
  cases i with
  | drvStart => simp [FailsValidity, opOf, (guarded_ends (drvStart_ends s.block)).invalidParameter]
  | drvStop => simp [FailsValidity, opOf, (guarded_ends (drvStop_ends s.block)).invalidParameter]
  | drvUpdate =>
    simp [FailsValidity, opOf, (guarded_ends (drvUpdate_ends _ _ _ s.block)).invalidParameter, freqOperand, dutyOperand]
  | init => simp [FailsValidity, opOf, (toneInit_ends _ s.block).invalidParameter]
  | on => simp [FailsValidity, opOf, (toneOn_ends _ _ s.block).invalidParameter, freqOperand]
  | off => simp [FailsValidity, opOf, toneOff, (guarded_ends (drvStop_ends s.block)).invalidParameter]
  | updateFreq =>
    simp [FailsValidity, opOf, (toneUpdateFreq_ends _ _ s.block).invalidParameter, freqOperand, hi.toneDuty_le]
  | mute => simp [FailsValidity, opOf, toneMute_eq, setDuty_not_invalidParameter_of_inv hi]
  | unmute => simp [FailsValidity, opOf, toneUnmute_eq, setDuty_not_invalidParameter_of_inv hi, hduty]
  | play => simp [FailsValidity, opOf, (play_ends _ _ s.block).invalidParameter, distanceOperand]
  | pause => simp [FailsValidity, opOf, (pause_ends_of_inv hi).invalidParameter]
  | onTick => simp [FailsValidity, opOf, (ontick_ends_of_inv hi).invalidParameter]

/-! ### When a command raises `StartWhileRunning` -/

/-- The condition of R207: a start by DRV_START, ON or a first PLAY on a running channel. -/
def StartsRunning (p : Params) (i : Instr) (b : Block) : Prop :=
  b.tone.tcInit = true ∧ b.drv.run = true ∧
    (i = .drvStart ∨ i = .on ∨ (i = .play ∧ b.cad.ceInit = false ∧ ∃ off, distToTicks p b.host.arg0 = .ok off))

theorem opOf_of_startsRunning {p : Params} {i : Instr} {b : Block} (pins : Pins) (h : StartsRunning p i b) :
    opOf i p pins b = (b, .raised .startWhileRunning) := by
  obtain ⟨ht, hr, rfl | rfl | ⟨rfl, hc, off, hd⟩⟩ := h
  · exact (opOf_drvStart_initialized p pins ht).trans (drvStart_running hr)
  · exact toneOn_running _ _ ht hr
  · have hplay : opOf .play p pins b = _ := play_first ht hc hd
    rw [hplay, playFirst_running ht hr, Ran.thenOk_raised]

theorem opOf_startWhileRunning_iff (i : Instr) (p : Params) (pins : Pins) (b : Block) :
    (opOf i p pins b).2 = .raised .startWhileRunning ↔ StartsRunning p i b := by
  cases i with
  | drvStart => simp [StartsRunning, opOf, (guarded_ends (drvStart_ends b)).startWhileRunning]
  | drvStop => simp [StartsRunning, opOf, (guarded_ends (drvStop_ends b)).startWhileRunning]
  | drvUpdate => simp [StartsRunning, opOf, (guarded_ends (drvUpdate_ends _ _ _ b)).startWhileRunning]
  | init => simp [StartsRunning, opOf, (toneInit_ends _ b).startWhileRunning]
  | on => simp [StartsRunning, opOf, (toneOn_ends _ _ b).startWhileRunning]
  | off => simp [StartsRunning, opOf, toneOff, (guarded_ends (drvStop_ends b)).startWhileRunning]
  | updateFreq => simp [StartsRunning, opOf, (toneUpdateFreq_ends _ _ b).startWhileRunning]
  | mute => simp [StartsRunning, opOf, toneMute_eq, setDuty_not_startWhileRunning]
  | unmute => simp [StartsRunning, opOf, toneUnmute_eq, setDuty_not_startWhileRunning]
  | play => simp [StartsRunning, opOf, (play_ends _ _ b).startWhileRunning, distanceOperand]
  | pause => simp [StartsRunning, opOf, pause_not_startWhileRunning]
  | onTick => simp [StartsRunning, opOf, ontick_not_startWhileRunning]

/-! ### From `RESULT` and the fault record back to the ending -/

theorem Reply.result_eq_notInitialized_iff (r : Reply) : r.result = .notInitialized ↔ r = .notInitialized := by
  cases r <;> simp [Reply.result]

theorem Reply.result_eq_invalidParameter_iff (r : Reply) : r.result = .invalidParameter ↔ r = .invalidParameter := by
  cases r <;> simp [Reply.result]

/-- Where no fault was recorded before, the record after a command is that of the fault it raised (R204). -/
theorem Ran.asCommand_records_iff {m : Ran} (h : m.1.host.fault = false) (c : Fault) :
    m.asCommand.host.faultCause = some c ∧ m.asCommand.host.fault = true ↔ m.2 = .raised c := by
  obtain ⟨b, _ | _ | _ | c'⟩ := m <;> simp_all

/-- Settles O49: the reply is `NotInitialized` exactly when a guard fails, and a failed guard leaves the block. -/
theorem notInitializedExactly : Obligations.NotInitializedExactly := by
  unfold Obligations.NotInitializedExactly
  intro i s t hi hexec
  have hiff : t.block.host.result = .notInitialized ↔ FailsGuard i s.block := by
    rw [exec_eq_next hexec, Ran.asCommand_result, Reply.result_eq_notInitialized_iff, opOf_notInitialized_iff hi]
  refine ⟨hiff, fun hresult => ?frame⟩
  case frame =>
    rw [exec_eq_next hexec, opOf_of_failsGuard _ _ (hiff.1 hresult)]
    rfl

/-- Settles O50: the reply is `InvalidParameter` exactly when the validity check fails, on the block from before or on
the started one. -/
theorem invalidParameterExactly : Obligations.InvalidParameterExactly := by
  unfold Obligations.InvalidParameterExactly
  intro i s t hi hexec clk
  have hiff : t.block.host.result = .invalidParameter ↔ FailsValidity s.env.params i s.block := by
    rw [exec_eq_next hexec, Ran.asCommand_result, Reply.result_eq_invalidParameter_iff, opOf_invalidParameter_iff hi]
  refine ⟨hiff, fun hresult => ?frame⟩
  case frame =>
    rw [exec_eq_next hexec]
    obtain ⟨_, hop⟩ | ⟨hstart, hop⟩ := opOf_of_failsValidity s.env.pins (hiff.1 hresult) <;>
      rw [hop, Ran.asCommand_invalidParameter]
    · exact ⟨rfl, rfl, rfl, rfl, rfl, rfl, rfl, rfl, fun _ => rfl⟩
    · refine ⟨rfl, rfl, rfl, rfl, rfl, rfl, rfl, rfl, fun hupdate => ?_⟩
      obtain rfl | rfl := hstart <;> simp at hupdate

/-- Settles O51: the fault is raised exactly by a start on a running channel, which leaves the block. -/
theorem startWhileRunningExactly : Obligations.StartWhileRunningExactly := by
  unfold Obligations.StartWhileRunningExactly
  intro i s t hexec hfault
  have hop_fault : (opOf i s.env.params s.env.pins s.block).1.host.fault = false := by rw [opOf_host, hfault]
  have hiff : t.block.host.faultCause = some .startWhileRunning ∧ t.block.host.fault = true ↔
      StartsRunning s.env.params i s.block := by
    rw [exec_eq_next hexec, Ran.asCommand_records_iff hop_fault, opOf_startWhileRunning_iff]
  refine ⟨hiff, fun hrecord => ?frame⟩
  case frame =>
    rw [exec_eq_next hexec, opOf_of_startsRunning _ (hiff.1 hrecord)]
    rfl

end Sys2Proof.Machine

/-! PROOFS. Decode and encode in both directions, and a step as its input's answer (R63, R70, R80, R81, R86, R200). -/

namespace Sys2Proof

/-! ### Legal words -/

/-- The format's own check of a word is the decoder's: a legal word is a word of a command (R81, R86). -/
theorem wellFormed_fieldsOf_iff (w : Word) : (fieldsOf w).wellFormed = true ↔ ∃ i, decode w = .ok i := by
  rw [← Machine.decode_isOk_iff_exists, Machine.decode_isOk_iff]
  simp [CmdWord.wellFormed, CmdWord.reservedIsZero, CmdWord.opcodeNotZero, CmdWord.opcodeAssigned, and_assoc]

/-- Settles O3: the decoder answers a command exactly on the command's own word, and the legal words are those. -/
theorem decodeAndEncodeAgree : Obligations.DecodeAndEncodeAgree := by
  unfold Obligations.DecodeAndEncodeAgree
  refine ⟨fun i _ => ?encoded, fun w i hd => ?decoded, fun w hlegal => ?legal⟩
  case encoded => exact ⟨decode_encode i, (wellFormed_fieldsOf_iff _).2 ⟨i, decode_encode i⟩⟩
  case decoded => exact ((decode_eq_ok_iff w i).1 hd).symm
  case legal =>
    obtain ⟨i, hd⟩ := (wellFormed_fieldsOf_iff w).1 hlegal
    exact ⟨i, ((decode_eq_ok_iff w i).1 hd).symm⟩

/-- Settles O1: each row's word is the encoder's, and the five other words are closed evaluations of the decoder. -/
theorem commandWordsDecode : Obligations.CommandWordsDecode := by
  unfold Obligations.CommandWordsDecode
  exact ⟨decode_encode .drvStart, decode_encode .drvStop, decode_encode .drvUpdate, decode_encode .init,
    decode_encode .on, decode_encode .off, decode_encode .updateFreq, decode_encode .mute, decode_encode .unmute,
    decode_encode .play, decode_encode .pause, decode_encode .onTick, rfl, rfl, rfl, rfl, rfl⟩

end Sys2Proof

namespace Sys2Proof.Machine

/-! ### A step -/

/-- The write to CMD of a command's word is the command on the state that has taken the input (R63). -/
theorem step_command {s : State} {w : Word} {i : Instr} {pins : Pins} {rest : List Input}
    (h : s.env.inputs = ⟨.regWrite 0 w, pins⟩ :: rest) (hd : decode w = .ok i) :
    step s = exec i (s.take ⟨.regWrite 0 w, pins⟩ rest) := by
  have answer : step s = writeCmd w (s.take ⟨.regWrite 0 w, pins⟩ rest) := by
    simp only [step, nextStep, h]
    rfl
  rw [answer, writeCmd, hd]

/-- A table row that decodes is a 32-bit word that decodes (log entry 16). -/
theorem decodeTableWord_eq_some {nbits w : Nat} {i : Instr} (h : decodeTableWord nbits w = some i) :
    ∃ word, tableWord nbits w = some word ∧ decode word = .ok i := by
  unfold decodeTableWord at h
  split at h
  · contradiction
  · next word hword =>
    refine ⟨word, hword, ?_⟩
    split at h
    · next j hj => rw [hj, Option.some.inj h]
    · contradiction

/-- Settles O5: `step_command`, and the requested write is the next input, which the step takes off again. -/
theorem stepRunsTheDecodedCommand : Obligations.StepRunsTheDecodedCommand := by
  unfold Obligations.StepRunsTheDecodedCommand
  refine ⟨fun s w i pins rest h hd => step_command h hd, fun s w i hrow => ?_⟩
  obtain ⟨word, hword, hd⟩ := decodeTableWord_eq_some hrow
  have request : s.withFetchWord 32 w = s.request (.regWrite 0 word) := by
    simp only [State.withFetchWord, requestCommand, hword]
    rfl
  rw [request]
  exact step_command rfl hd

/-- Settles O6: `step_idle` and `step_eq`. -/
theorem stepTakesOneInputAndGoesOn : Obligations.StepTakesOneInputAndGoesOn := by
  unfold Obligations.StepTakesOneInputAndGoesOn
  intro s
  exact ⟨step_idle, fun inp rest h => ⟨_, step_eq h⟩⟩

end Sys2Proof.Machine

/-! PROOFS. The invariant of R46: each named write and each operation keeps it, so every step does. -/

namespace Sys2Proof.Machine

/-! ### The invariant as a predicate on the block -/

/-- The invariant speaks of the block and the parameters alone, so it is stated here of these two. -/
def InvOn (p : Params) (b : Block) : Prop := Inv { block := b, env := { params := p, pins := Pins.low, inputs := [] } }

theorem inv_iff_invOn (s : State) : Inv s ↔ InvOn s.env.params s.block :=
  ⟨fun h => ⟨h.duty, h.clock, h.engine, h.pulse, h.freq, h.cause, h.unbound, h.unplayed, h.ready, h.halted⟩,
    fun h => ⟨h.duty, h.clock, h.engine, h.pulse, h.freq, h.cause, h.unbound, h.unplayed, h.ready, h.halted⟩⟩

/-- Of the host group the invariant reads the fault record alone (R46 (f)). -/
theorem InvOn.of_groups {p : Params} {b b' : Block} (h : InvOn p b) (hchan : b'.chan = b.chan)
    (htone : b'.tone = b.tone) (hdrv : b'.drv = b.drv) (hcad : b'.cad = b.cad)
    (hcause : b'.host.fault = false → b'.host.faultCause = none) : InvOn p b' := by
  obtain ⟨host, chan, tone, drv, cad⟩ := b'
  subst hchan htone hdrv hcad
  exact ⟨h.duty, h.clock, h.engine, h.pulse, h.freq, hcause, h.unbound, h.unplayed, h.ready, h.halted⟩

theorem InvOn.recordFault {p : Params} {b : Block} (h : InvOn p b) (c : Fault) : InvOn p (b.recordFault c) :=
  h.of_groups rfl rfl rfl rfl nofun

theorem InvOn.withResult {p : Params} {b : Block} (h : InvOn p b) (r : Result) : InvOn p (b.withResult r) :=
  h.of_groups rfl rfl rfl rfl h.cause

theorem InvOn.withArg0 {p : Params} {b : Block} (h : InvOn p b) (v : Word) : InvOn p (b.withArg0 v) :=
  h.of_groups rfl rfl rfl rfl h.cause

theorem InvOn.withArg1 {p : Params} {b : Block} (h : InvOn p b) (v : Word) : InvOn p (b.withArg1 v) :=
  h.of_groups rfl rfl rfl rfl h.cause

theorem InvOn.asEvent {p : Params} {m : Ran} (h : InvOn p m.1) : InvOn p m.asEvent := by
  obtain ⟨b, _ | _ | _ | c⟩ := m
  case raised => exact InvOn.recordFault h c
  all_goals exact h

theorem InvOn.asCommand {p : Params} {m : Ran} (h : InvOn p m.1) : InvOn p m.asCommand :=
  (InvOn.asEvent h).withResult _

theorem invOn_reset (p : Params) : InvOn p Block.reset where
  duty := .inl rfl
  clock := nofun
  engine := nofun
  pulse := Nat.le_refl 0
  freq := nofun
  cause := fun _ => rfl
  unbound := fun _ => ⟨rfl, rfl, rfl⟩
  unplayed := fun _ => rfl
  ready := nofun
  halted := nofun

/-! ### The writes of the Driver and the Tone Controller, on a bound channel -/

/-- A bound channel may hold any applicator state with `pulse <= period`. -/
theorem InvOn.withDrv {p : Params} {b : Block} (h : InvOn p b) (ht : b.tone.tcInit = true) {r : DriverState}
    (hpulse : r.pulsePre.toNat ≤ r.periodPre.toNat) : InvOn p { b with drv := r } :=
  ⟨h.duty, h.clock, h.engine, hpulse, h.freq, h.cause, fun huninit => absurd (ht.symm.trans huninit) nofun,
    h.unplayed, h.ready, h.halted⟩

theorem InvOn.startRun {p : Params} {b : Block} (h : InvOn p b) (ht : b.tone.tcInit = true) : InvOn p b.startRun :=
  h.withDrv ht h.pulse

theorem InvOn.stopRun {p : Params} {b : Block} (h : InvOn p b) (ht : b.tone.tcInit = true) : InvOn p b.stopRun :=
  h.withDrv ht h.pulse

theorem InvOn.reload {p : Params} {b : Block} (h : InvOn p b) (ht : b.tone.tcInit = true) : InvOn p b.reload :=
  h.withDrv ht h.pulse

/-- `pulse <= period` in the registers that hold the formulas (R110). -/
theorem Preloaded.pulsePre_le_periodPre {p : Params} {clk f d : Nat} {r : DriverState} (h : Preloaded p clk f d r)
    (hd : d ≤ 100) : r.pulsePre.toNat ≤ r.periodPre.toNat := by
  obtain ⟨_, hperiod, hpulse⟩ := h
  rw [hpulse, hperiod]
  exact pulse_le hd

theorem InvOn.calcPreload {p : Params} {b : Block} (h : InvOn p b) (ht : b.tone.tcInit = true) (f : Nat) {d : Nat}
    (hd : d ≤ 100) : InvOn p (calcPreload p f d b) :=
  h.withDrv ht ((calcPreload_preloaded p f hd b).pulsePre_le_periodPre hd)

/-- A frequency that updates without fault at the audible duty may be stored (R46 (e), R166). -/
theorem InvOn.withToneFreq {p : Params} {b : Block} (h : InvOn p b) (ht : b.tone.tcInit = true) {f : Word}
    (hf : CalcReady p b.chan.clockHz.toNat f.toNat p.defaultDuty) : InvOn p (b.withToneFreq f) :=
  ⟨h.duty, h.clock, h.engine, h.pulse, fun _ => hf.1, h.cause, fun huninit => absurd (ht.symm.trans huninit) nofun,
    h.unplayed, fun _ => hf, h.halted⟩

theorem InvOn.withToneDuty {p : Params} {b : Block} (h : InvOn p b) (ht : b.tone.tcInit = true) {d : Byte}
    (hd : d.toNat = 0 ∨ d.toNat = p.defaultDuty) : InvOn p (b.withToneDuty d) :=
  ⟨hd, h.clock, h.engine, h.pulse, h.freq, h.cause, fun huninit => absurd (ht.symm.trans huninit) nofun,
    h.unplayed, h.ready, h.halted⟩

/-- The stored duty cycle is the parameter as an exact number (R7, R29). -/
theorem toNat_ofNat_defaultDuty (p : Params) : (BitVec.ofNat 8 p.defaultDuty).toNat = p.defaultDuty := by
  have hrange := p.defaultDuty_range
  rw [BitVec.toNat_ofNat, Nat.mod_eq_of_lt (by omega)]

/-- A frequency up to the clock is held by its word. -/
theorem CalcReady.toNat_ofNat {p : Params} {clk : Word} {f d : Nat} (h : CalcReady p clk.toNat f d) :
    (BitVec.ofNat 32 f).toNat = f := by
  obtain ⟨hf, _⟩ := h
  rw [BitVec.toNat_ofNat, Nat.mod_eq_of_lt (lt_of_le_of_lt hf clk.isLt)]

/-- A passing calculation passes at the audible duty too (R7, R105). -/
theorem CalcReady.defaultDuty {p : Params} {clk f d : Nat} (h : CalcReady p clk f d) :
    CalcReady p clk f p.defaultDuty := by
  obtain ⟨hf, _, hpos, hclk⟩ := h
  exact ⟨hf, p.defaultDuty_range.2, hpos, hclk⟩

theorem InvOn.bindChannel {p : Params} {b : Block} (h : InvOn p b) (ht : b.tone.tcInit = false) {pins : Pins}
    (hclk : pins.clkHzIn ≠ 0) : InvOn p (b.bindChannel pins) := by
  obtain ⟨_, htone, _⟩ := h.unbound ht
  have hfreq : b.tone.toneFreq = 0 := congrArg ToneState.toneFreq htone
  have hpos : 0 < pins.clkHzIn.toNat := Nat.pos_of_ne_zero fun h0 => hclk (BitVec.eq_of_toNat_eq h0)
  refine ⟨h.duty, fun _ => hpos, fun _ => rfl, h.pulse, fun _ => ?freq, h.cause, nofun, h.unplayed,
    fun hc => absurd (ht.symm.trans (h.engine hc)) nofun, h.halted⟩
  case freq =>
    change b.tone.toneFreq.toNat ≤ pins.clkHzIn.toNat
    rw [hfreq]
    exact Nat.zero_le _

/-! ### The writes of the Engine -/

/-- An initialized Engine may hold any cadence, a paused one with its counter at 0. -/
theorem InvOn.withCad {p : Params} {b : Block} (h : InvOn p b) (ht : b.tone.tcInit = true)
    (hr : CalcReady p b.chan.clockHz.toNat b.tone.toneFreq.toNat p.defaultDuty) {c : CadenceState}
    (hc : c.ceInit = true) (hhalt : c.paused = true → c.tickCnt = 0) : InvOn p { b with cad := c } :=
  ⟨h.duty, h.clock, fun _ => ht, h.pulse, h.freq, h.cause, h.unbound,
    fun hidle => absurd (hc.symm.trans hidle) nofun, fun _ => hr, hhalt⟩

theorem InvOn.enterPause {p : Params} {b : Block} (h : InvOn p b) (hc : b.cad.ceInit = true) : InvOn p b.enterPause :=
  h.withCad (h.engine hc) (h.ready hc) hc fun _ => rfl

theorem InvOn.withBounds {p : Params} {b : Block} (h : InvOn p b) (hc : b.cad.ceInit = true) (on off : Word) :
    InvOn p (b.withBounds on off) :=
  h.withCad (h.engine hc) (h.ready hc) hc nofun

/-- The first-call part of PLAY keeps the invariant: its ON stored a frequency that updates without fault (R166). -/
theorem InvOn.playedFirst {p : Params} {b : Block} (h : InvOn p b) (ht : b.tone.tcInit = true)
    (hr : CalcReady p b.chan.clockHz.toNat p.baseFreqHz p.defaultDuty) : InvOn p (playedFirst p b) := by
  have hfreq := hr.toNat_ofNat
  have hword : CalcReady p b.chan.clockHz.toNat (BitVec.ofNat 32 p.baseFreqHz).toNat p.defaultDuty := by rwa [hfreq]
  have hstart := h.startRun ht
  have hon := hstart.calcPreload ht p.baseFreqHz p.defaultDuty_range.2
  have hstore := hon.withToneFreq (f := BitVec.ofNat 32 p.baseFreqHz) ht hword
  have hmute := (hstore.calcPreload ht p.baseFreqHz (Nat.zero_le 100)).withToneDuty (d := 0) ht (.inl rfl)
  exact hmute.withCad ht hword rfl fun _ => rfl

/-! ### The operations -/

/-- MUTE and UNMUTE keep the invariant: the duty they store is 0 or the audible one (R46 (a)). -/
theorem InvOn.setDuty {p : Params} {b : Block} (h : InvOn p b) {d : Nat} (hd : d = 0 ∨ d = p.defaultDuty) :
    InvOn p (setDuty p d b).1 := by
  have hword : (BitVec.ofNat 8 d).toNat = 0 ∨ (BitVec.ofNat 8 d).toNat = p.defaultDuty := by
    obtain rfl | rfl := hd
    · exact .inl rfl
    · exact .inr (toNat_ofNat_defaultDuty p)
  obtain ⟨_, he⟩ | ⟨ht, ⟨_, he⟩ | ⟨_, he⟩ | ⟨⟨_, hle, _⟩, he⟩⟩ := setDuty_cases p d b <;> rw [he]
  · exact h
  · exact h
  · exact h
  · exact (h.calcPreload ht _ hle).withToneDuty ht hword

theorem InvOn.drvUpdate {p : Params} {b : Block} (h : InvOn p b) (ht : b.tone.tcInit = true) (f d : Nat) :
    InvOn p (drvUpdate p f d b).1 := by
  obtain ⟨_, he⟩ | ⟨_, he⟩ | ⟨⟨_, hd, _⟩, he⟩ := drvUpdate_cases p f d b <;> rw [he]
  · exact h
  · exact h
  · exact h.calcPreload ht f hd

theorem InvOn.toneInit {p : Params} {b : Block} (h : InvOn p b) (pins : Pins) : InvOn p (toneInit pins b).1 := by
  cases ht : b.tone.tcInit with
  | true => rwa [toneInit_repeated pins ht]
  | false =>
    by_cases hclk : pins.clkHzIn = 0
    · rwa [toneInit_clockZero ht hclk]
    · rw [toneInit_ok ht hclk]
      exact h.bindChannel ht hclk

theorem InvOn.toneOn {p : Params} {b : Block} (h : InvOn p b) (f : Nat) : InvOn p (toneOn p f b).1 := by
  obtain ⟨_, he⟩ | ⟨ht, ⟨_, he⟩ | ⟨_, ⟨_, he⟩ | ⟨_, he⟩ | ⟨hr, he⟩⟩⟩ := toneOn_cases p f b <;> rw [he]
  · exact h
  · exact h
  · exact h.startRun ht
  · exact h.startRun ht
  · have hstore := ((h.startRun ht).calcPreload ht f p.defaultDuty_range.2).withToneFreq (f := BitVec.ofNat 32 f) ht
      (by rwa [hr.toNat_ofNat])
    exact hstore.withToneDuty ht (.inr (toNat_ofNat_defaultDuty p))

theorem InvOn.toneUpdateFreq {p : Params} {b : Block} (h : InvOn p b) (f : Nat) :
    InvOn p (toneUpdateFreq p f b).1 := by
  obtain ⟨_, he⟩ | ⟨ht, ⟨_, he⟩ | ⟨_, he⟩ | ⟨hr, he⟩⟩ := toneUpdateFreq_cases p f b <;> rw [he]
  · exact h
  · exact h
  · exact h
  · have ⟨_, hd, _⟩ := hr
    exact (h.calcPreload ht f hd).withToneFreq ht (by rw [hr.toNat_ofNat]; exact hr.defaultDuty)

theorem InvOn.play {p : Params} {b : Block} (h : InvOn p b) (w : Word) : InvOn p (play p w b).1 := by
  obtain ⟨_, he⟩ | ⟨ht, ⟨_, _, he⟩ | ⟨off, _, ⟨hc, he⟩ | ⟨_, ⟨_, he⟩ | ⟨_, ⟨_, he⟩ | ⟨_, he⟩ | ⟨hr, he⟩⟩⟩⟩⟩ :=
    play_cases p w b <;> rw [he]
  · exact h
  · exact h
  · exact h.withBounds hc _ off
  · exact h
  · exact h.startRun ht
  · exact h.startRun ht
  · exact (h.playedFirst ht hr).withBounds rfl _ off

theorem InvOn.pause {p : Params} {b : Block} (h : InvOn p b) : InvOn p (pause p b).1 := by
  cases hc : b.cad.ceInit with
  | false => rwa [pause_uninitialized hc]
  | true =>
    rw [pause_initialized hc]
    exact (h.enterPause hc).setDuty (.inl rfl)

/-- A playing tick keeps the invariant, whichever of its six cases applies (R172 to R177). -/
theorem InvOn.ticked {p : Params} {b : Block} (h : InvOn p b) (hc : b.cad.ceInit = true)
    (hp : b.cad.paused = false) : InvOn p (ticked p b) := by
  have ht := h.engine hc
  have hr := h.ready hc
  obtain ⟨hc', hp', _⟩ := tickedCadence_flags b.cad
  have hcad : ∀ {b' : Block}, InvOn p b' → b'.tone.tcInit = true →
      CalcReady p b'.chan.clockHz.toNat b'.tone.toneFreq.toNat p.defaultDuty →
      InvOn p { b' with cad := tickedCadence b.cad } := fun h' ht' hr' =>
    h'.withCad ht' hr' (hc'.trans hc) fun hpaused => absurd ((hp'.trans hp).symm.trans hpaused) nofun
  unfold Machine.ticked
  split
  · next d hd =>
    have hduty : d = 0 ∨ d = p.defaultDuty := by
      unfold tickedDuty at hd
      split at hd <;> simp_all
    have hcall := h.setDuty hduty
    have hready : CalcReady p b.chan.clockHz.toNat b.tone.toneFreq.toNat d := by
      obtain rfl | rfl := hduty
      · exact calcReady_zero hr
      · exact hr
    rw [setDuty_ok ht hready] at hcall
    exact hcad hcall ht hr
  · exact hcad h ht hr

theorem InvOn.ontick {p : Params} {b : Block} (h : InvOn p b) : InvOn p (ontick p b).1 := by
  cases hc : b.cad.ceInit with
  | false => rwa [ontick_uninitialized hc]
  | true =>
    cases hp : b.cad.paused with
    | true =>
      rw [ontick_paused hc hp]
      exact h.setDuty (.inl rfl)
    | false =>
      rw [ontick_playing (h.engine hc) (h.ready hc) hc hp]
      exact h.ticked hc hp

/-- The guard keeps the invariant when the operation behind it does on a bound channel. -/
theorem InvOn.guarded {p : Params} {b : Block} (h : InvOn p b) {k : Block → Ran}
    (hk : b.tone.tcInit = true → InvOn p (k b).1) : InvOn p (guarded b k).1 := by
  cases ht : b.tone.tcInit with
  | false => rwa [guarded_uninitialized ht]
  | true =>
    rw [guarded_initialized ht]
    exact hk ht

theorem InvOn.drvStart {p : Params} {b : Block} (h : InvOn p b) (ht : b.tone.tcInit = true) :
    InvOn p (drvStart b).1 := by
  cases hr : b.drv.run with
  | true => rwa [drvStart_running hr]
  | false =>
    rw [drvStart_stopped hr]
    exact h.startRun ht

/-- Every command's operation keeps the invariant. -/
theorem InvOn.opOf {p : Params} {b : Block} (h : InvOn p b) (i : Instr) (pins : Pins) :
    InvOn p (opOf i p pins b).1 := by
  cases i with
  | drvStart => exact h.guarded h.drvStart
  | drvStop => exact h.guarded h.stopRun
  | drvUpdate => exact h.guarded fun ht => h.drvUpdate ht _ _
  | init => exact h.toneInit pins
  | on => exact h.toneOn _
  | off => exact h.guarded h.stopRun
  | updateFreq => exact h.toneUpdateFreq _
  | mute => exact h.setDuty (.inl rfl)
  | unmute => exact h.setDuty (.inr rfl)
  | play => exact h.play _
  | pause => exact h.pause
  | onTick => exact h.ontick

/-! ### The steps -/

/-- Only a bound channel runs (R113, R133). -/
theorem InvOn.tcInit_of_run {p : Params} {b : Block} (h : InvOn p b) (hr : b.drv.run = true) :
    b.tone.tcInit = true := by
  cases ht : b.tone.tcInit with
  | true => rfl
  | false =>
    obtain ⟨_, _, hdrv⟩ := h.unbound ht
    rw [hdrv] at hr
    contradiction

theorem InvOn.tickEvent {p : Params} {b : Block} (h : InvOn p b) : InvOn p (tickEvent p b) := by
  cases hr : b.drv.run with
  | false => rwa [tickEvent_stopped p hr]
  | true =>
    rw [tickEvent_running p hr]
    exact (h.reload (h.tcInit_of_run hr)).ontick.asEvent

theorem InvOn.respondedBlock {p : Params} {b : Block} (h : InvOn p b) (pins : Pins) (e : Event) :
    InvOn p (respondedBlock p pins e b) := by
  obtain ⟨he, _⟩ | ⟨v, i, _, _, he⟩ | ⟨v, _, he⟩ | ⟨v, _, he⟩ | ⟨v, _, he⟩ | ⟨i, v, _, he⟩ | ⟨rfl, _, _⟩ | ⟨_, he⟩ :=
    respondedBlock_cases p pins e b
  · rwa [he]
  · rw [he]
    exact (h.opOf i pins).asCommand
  · rw [he]
    exact (h.recordFault _).withResult _
  · rw [he]
    exact h.withArg0 v
  · rw [he]
    exact h.withArg1 v
  · rw [he]
    exact h.recordFault _
  · exact h.tickEvent
  · rw [he]
    exact invOn_reset p

/-- Settles O55: whatever the input, the block it leaves keeps the invariant. -/
theorem stepKeepsTheInvariant : Obligations.StepKeepsTheInvariant := by
  unfold Obligations.StepKeepsTheInvariant
  intro s t hi hstep
  cases hin : s.env.inputs with
  | nil =>
    rw [step_idle hin, Host.Outcome.next.injEq] at hstep
    rwa [← hstep]
  | cons inp rest =>
    rw [step_eq hin, Host.Outcome.next.injEq] at hstep
    rw [← hstep, inv_iff_invOn]
    exact ((inv_iff_invOn s).1 hi).respondedBlock inp.pins inp.event

/-- Settles O54: `invOn_reset` at the parameters of the build. -/
theorem resetMeetsTheInvariant : Obligations.ResetMeetsTheInvariant := by
  unfold Obligations.ResetMeetsTheInvariant
  exact (inv_iff_invOn _).2 (invOn_reset _)

end Sys2Proof.Machine

/-! PROOFS. The frames: what each command leaves as it was, over all commands and all states (R26, R30, R31, R48, R49,
R115, R132, R140), and what no step but a reset changes (R117, R118, R204, R230, R235). -/

namespace Sys2Proof.Machine

/-! ### The frame of an operation -/

/-- The three active copies of `r'` are those of `r` (R32). -/
def SameActive (r r' : DriverState) : Prop :=
  r'.pscAct = r.pscAct ∧ r'.periodAct = r.periodAct ∧ r'.pulseAct = r.pulseAct

/-- `r'` is a start of the stopped channel `r`: it runs, and its active copies are `unspecified` (R101, R118). -/
def Started (r r' : DriverState) : Prop :=
  r.run = false ∧ r'.run = true ∧ r'.pscAct = none ∧ r'.periodAct = none ∧ r'.pulseAct = none

/-- What the operation of command `i` leaves of the block `b` in the block `b'`. -/
structure OpFrame (i : Instr) (b b' : Block) : Prop where
  /-- R26, R132. -/
  binding : i ≠ .init → b'.chan = b.chan ∧ b'.tone.tcInit = b.tone.tcInit
  /-- R30. -/
  run : i ≠ .drvStart → i ≠ .drvStop → i ≠ .on → i ≠ .off → i ≠ .play → b'.drv.run = b.drv.run
  /-- R31, R115. -/
  preload : i = .drvStart ∨ i = .drvStop ∨ i = .init ∨ i = .off →
    b'.drv.pscPre = b.drv.pscPre ∧ b'.drv.periodPre = b.drv.periodPre ∧ b'.drv.pulsePre = b.drv.pulsePre
  /-- R140. -/
  toneFreq : i ≠ .on → i ≠ .updateFreq → i ≠ .play → b'.tone.toneFreq = b.tone.toneFreq
  /-- R140. -/
  toneDuty : i = .drvStart ∨ i = .drvStop ∨ i = .drvUpdate ∨ i = .init ∨ i = .off ∨ i = .updateFreq →
    b'.tone.toneDuty = b.tone.toneDuty
  /-- R167. -/
  laterPlay : b.cad.ceInit = true → i = .play → b'.drv = b.drv ∧ b'.tone = b.tone
  /-- R161. -/
  cad : i ≠ .play → i ≠ .pause → i ≠ .onTick → b'.cad = b.cad
  /-- R230. -/
  initialized : (b.tone.tcInit = true → b'.tone.tcInit = true) ∧ (b.cad.ceInit = true → b'.cad.ceInit = true)
  /-- R117, R118. -/
  active : SameActive b.drv b'.drv ∧ (b'.drv.run = true → b.drv.run = true) ∨ Started b.drv b'.drv

/-- An operation that makes no write. -/
theorem OpFrame.refl (i : Instr) (b : Block) : OpFrame i b b where
  binding _ := ⟨rfl, rfl⟩
  run _ _ _ _ _ := rfl
  preload _ := ⟨rfl, rfl, rfl⟩
  toneFreq _ _ _ := rfl
  toneDuty _ := rfl
  laterPlay _ _ := ⟨rfl, rfl⟩
  cad _ _ _ := rfl
  initialized := ⟨id, id⟩
  active := .inl ⟨⟨rfl, rfl, rfl⟩, id⟩

/-- The guard makes no write (R131). -/
theorem guarded_opFrame {i : Instr} {b : Block} {k : Block → Ran} (h : OpFrame i b (k b).1) :
    OpFrame i b (guarded b k).1 := by
  cases ht : b.tone.tcInit with
  | false =>
    rw [guarded_uninitialized ht]
    exact .refl i b
  | true => rwa [guarded_initialized ht]

theorem startRun_started {b : Block} (hr : b.drv.run = false) : Started b.drv b.startRun.drv :=
  ⟨hr, rfl, rfl, rfl, rfl⟩

theorem drvStart_opFrame (b : Block) : OpFrame .drvStart b (drvStart b).1 := by
  cases hr : b.drv.run with
  | true =>
    rw [drvStart_running hr]
    exact .refl _ b
  | false =>
    rw [drvStart_stopped hr]
    constructor
    case active => exact .inr (startRun_started hr)
    all_goals simp

/-- Of a stop by DRV_STOP or OFF. -/
theorem stopRun_opFrame {i : Instr} (hi : i = .drvStop ∨ i = .off) (b : Block) : OpFrame i b b.stopRun := by
  obtain rfl | rfl := hi <;> constructor <;> simp [SameActive]

theorem drvUpdate_opFrame (p : Params) (f d : Nat) (b : Block) : OpFrame .drvUpdate b (drvUpdate p f d b).1 := by
  obtain ⟨_, h⟩ | ⟨_, h⟩ | ⟨_, h⟩ := drvUpdate_cases p f d b <;> rw [h]
  · exact .refl _ b
  · exact .refl _ b
  · constructor <;> simp [calcPreload, SameActive]

theorem toneInit_opFrame (pins : Pins) (b : Block) : OpFrame .init b (toneInit pins b).1 := by
  cases ht : b.tone.tcInit with
  | true =>
    rw [toneInit_repeated pins ht]
    exact .refl _ b
  | false =>
    by_cases hclk : pins.clkHzIn = 0
    · rw [toneInit_clockZero ht hclk]
      exact .refl _ b
    · rw [toneInit_ok ht hclk]
      constructor <;> simp [SameActive]

theorem toneOn_opFrame (p : Params) (f : Nat) (b : Block) : OpFrame .on b (toneOn p f b).1 := by
  have started : ∀ {b' : Block}, b.drv.run = false → b'.chan = b.chan → b'.tone.tcInit = b.tone.tcInit →
      b'.cad = b.cad → SameButPreload b.startRun.drv b'.drv → OpFrame .on b b' := by
    intro b' hr hchan htc hcad hsame
    constructor
    case active => exact .inr ⟨hr, hsame⟩
    all_goals simp [hchan, htc, hcad]
  obtain ⟨_, h⟩ | ⟨_, ⟨_, h⟩ | ⟨hr, ⟨_, h⟩ | ⟨_, h⟩ | ⟨_, h⟩⟩⟩ := toneOn_cases p f b <;> rw [h]
  · exact .refl _ b
  · exact .refl _ b
  · exact started hr rfl rfl rfl ⟨rfl, rfl, rfl, rfl⟩
  · exact started hr rfl rfl rfl ⟨rfl, rfl, rfl, rfl⟩
  · exact started hr rfl rfl rfl (calcPreload_same p f p.defaultDuty b.startRun)

theorem toneUpdateFreq_opFrame (p : Params) (f : Nat) (b : Block) :
    OpFrame .updateFreq b (toneUpdateFreq p f b).1 := by
  obtain ⟨_, h⟩ | ⟨_, ⟨_, h⟩ | ⟨_, h⟩ | ⟨_, h⟩⟩ := toneUpdateFreq_cases p f b <;> rw [h]
  · exact .refl _ b
  · exact .refl _ b
  · exact .refl _ b
  · constructor <;> simp [calcPreload, SameActive]

/-- MUTE, UNMUTE, PAUSE and a tick write no more than the preload registers, the stored duty and the cadence (R140). -/
theorem opFrame_of_duty_write {i : Instr} {b b' : Block}
    (hi : i = .mute ∨ i = .unmute ∨ i = .pause ∨ i = .onTick) (hchan : b'.chan = b.chan)
    (htc : b'.tone.tcInit = b.tone.tcInit) (hfreq : b'.tone.toneFreq = b.tone.toneFreq)
    (hsame : SameButPreload b.drv b'.drv) (hce : b'.cad.ceInit = b.cad.ceInit)
    (hcad : i = .mute ∨ i = .unmute → b'.cad = b.cad) : OpFrame i b b' := by
  obtain ⟨hrun, hactive⟩ := hsame
  constructor
  case active => exact .inl ⟨hactive, hrun ▸ id⟩
  all_goals
    obtain rfl | rfl | rfl | rfl := hi <;> simp_all

theorem setDuty_opFrame {i : Instr} (hi : i = .mute ∨ i = .unmute) (p : Params) (d : Nat) (b : Block) :
    OpFrame i b (setDuty p d b).1 := by
  obtain ⟨_, hchan, hcad, hsame, htc, hfreq⟩ := setDuty_frame p d b
  exact opFrame_of_duty_write (hi.imp_right .inl) hchan htc hfreq hsame (congrArg _ hcad) fun _ => hcad

theorem pause_opFrame (p : Params) (b : Block) : OpFrame .pause b (pause p b).1 := by
  cases hc : b.cad.ceInit with
  | false =>
    rw [pause_uninitialized hc]
    exact .refl _ b
  | true =>
    rw [pause_initialized hc]
    obtain ⟨_, hchan, hcad, hsame, htc, hfreq⟩ := setDuty_frame p 0 b.enterPause
    exact opFrame_of_duty_write (by simp) hchan htc hfreq hsame (by rw [hcad]; rfl) (by simp)

theorem ontick_opFrame (p : Params) (b : Block) : OpFrame .onTick b (ontick p b).1 := by
  obtain ⟨_, hchan, hsame, htc, hfreq, hce, _⟩ := ontick_frame p b
  exact opFrame_of_duty_write (by simp) hchan htc hfreq hsame hce (by simp)

theorem play_opFrame (p : Params) (w : Word) (b : Block) : OpFrame .play b (play p w b).1 := by
  have first : ∀ {b' : Block}, b.cad.ceInit = false → b.drv.run = false → b'.chan = b.chan →
      b'.tone.tcInit = b.tone.tcInit → SameButPreload b.startRun.drv b'.drv → OpFrame .play b b' := by
    intro b' hc hr hchan htc hsame
    constructor
    case active => exact .inr ⟨hr, hsame⟩
    all_goals simp [hc, hchan, htc]
  obtain ⟨_, h⟩ | ⟨_, ⟨_, _, h⟩ | ⟨_, _, ⟨hc, h⟩ | ⟨hc, ⟨_, h⟩ | ⟨hr, ⟨_, h⟩ | ⟨_, h⟩ | ⟨_, h⟩⟩⟩⟩⟩ :=
    play_cases p w b <;> rw [h]
  · exact .refl _ b
  · exact .refl _ b
  · constructor <;> simp [SameActive]
  · exact .refl _ b
  · exact first hc hr rfl rfl ⟨rfl, rfl, rfl, rfl⟩
  · exact first hc hr rfl rfl ⟨rfl, rfl, rfl, rfl⟩
  · exact first hc hr rfl rfl (playedFirst_same p b)

theorem opOf_opFrame (i : Instr) (p : Params) (pins : Pins) (b : Block) : OpFrame i b (opOf i p pins b).1 := by
  cases i with
  | drvStart => exact guarded_opFrame (drvStart_opFrame b)
  | drvStop => exact guarded_opFrame (stopRun_opFrame (.inl rfl) b)
  | drvUpdate => exact guarded_opFrame (drvUpdate_opFrame p _ _ b)
  | init => exact toneInit_opFrame pins b
  | on => exact toneOn_opFrame p _ b
  | off => exact guarded_opFrame (stopRun_opFrame (.inr rfl) b)
  | updateFreq => exact toneUpdateFreq_opFrame p _ b
  | mute => exact setDuty_opFrame (.inl rfl) p 0 b
  | unmute => exact setDuty_opFrame (.inr rfl) p p.defaultDuty b
  | play => exact play_opFrame p _ b
  | pause => exact pause_opFrame p b
  | onTick => exact ontick_opFrame p b

/-! ### The frame of a command -/

/-- The ending of a command writes the host group alone, so the frame is that of its operation. -/
theorem OpFrame.asCommand {i : Instr} {b : Block} {m : Ran} (h : OpFrame i b m.1) : OpFrame i b m.asCommand := by
  obtain ⟨hchan, htone, hdrv, hcad⟩ := m.asCommand_groups
  constructor
  · rw [hchan, htone]; exact h.binding
  · rw [hdrv]; exact h.run
  · rw [hdrv]; exact h.preload
  · rw [htone]; exact h.toneFreq
  · rw [htone]; exact h.toneDuty
  · rw [hdrv, htone]; exact h.laterPlay
  · rw [hcad]; exact h.cad
  · rw [htone, hcad]; exact h.initialized
  · rw [hdrv]; exact h.active

theorem exec_opFrame {i : Instr} {s t : State} (h : exec i s = .next t) : OpFrame i s.block t.block := by
  rw [exec_eq_next h]
  exact (opOf_opFrame i s.env.params s.env.pins s.block).asCommand

/-- Settles O52: no operation writes the host group, no ending the operands, and the binding is in every frame but
INIT's. -/
theorem frameOfOperandsAndBinding : Obligations.FrameOfOperandsAndBinding := by
  unfold Obligations.FrameOfOperandsAndBinding
  intro i s t hexec
  have hframe := exec_opFrame hexec
  obtain ⟨harg0, harg1⟩ := (opOf i s.env.params s.env.pins s.block).asCommand_operands
  rw [opOf_host] at harg0 harg1
  rw [exec_eq_next hexec] at hframe ⊢
  exact ⟨rfl, harg0, harg1, hframe.binding⟩

/-- Settles O53: the fields of the command's frame. -/
theorem frameOfOutputAndTone : Obligations.FrameOfOutputAndTone := by
  unfold Obligations.FrameOfOutputAndTone
  intro i s t hexec
  have hframe := exec_opFrame hexec
  exact ⟨hframe.run, hframe.preload, hframe.toneFreq, hframe.toneDuty, hframe.laterPlay, hframe.cad⟩

/-! ### The fault record of a command -/

/-- On a block without a fault, the ending records one exactly when it makes `RESULT` 3 (R87, R204). -/
theorem Ran.asCommand_fault_iff {m : Ran} (h : m.1.host.fault = false) :
    (m.asCommand.host.fault = true ↔ m.asCommand.host.result = .fault) ∧
    (m.asCommand.host.fault = true → ∃ c, m.asCommand.host.faultCause = some c) ∧
    (m.asCommand.host.fault = false → m.asCommand.host.faultCause = m.1.host.faultCause) := by
  obtain ⟨b, _ | _ | _ | c⟩ := m <;> simp_all

/-- Settles O13: the record is written by the command's ending alone. -/
theorem faultRecordedWithResultThree : Obligations.FaultRecordedWithResultThree := by
  unfold Obligations.FaultRecordedWithResultThree
  intro i s t hexec hfault
  have hhost := opOf_host i s.env.params s.env.pins s.block
  have hrecord := Ran.asCommand_fault_iff (by rw [hhost, hfault])
  rw [hhost] at hrecord
  rw [exec_eq_next hexec]
  exact hrecord

/-! ### What no step but a reset changes -/

/-- `TC_INIT`, `CE_INIT` and `FAULT` stay set, and the first cause stays (R204, R230). -/
structure KeepsSetFlags (b b' : Block) : Prop where
  tcInit : b.tone.tcInit = true → b'.tone.tcInit = true
  ceInit : b.cad.ceInit = true → b'.cad.ceInit = true
  fault : b.host.fault = true → b'.host.fault = true ∧ b'.host.faultCause = b.host.faultCause

theorem KeepsSetFlags.refl (b : Block) : KeepsSetFlags b b := ⟨id, id, fun h => ⟨h, rfl⟩⟩

theorem KeepsSetFlags.recordFault (b : Block) (c : Fault) : KeepsSetFlags b (b.recordFault c) :=
  ⟨id, id, fun h => by simp [h]⟩

theorem command_keepsSetFlags (i : Instr) (p : Params) (pins : Pins) (b : Block) :
    KeepsSetFlags b (opOf i p pins b).asCommand := by
  have hframe := (opOf_opFrame i p pins b).asCommand
  obtain ⟨htc, hce⟩ := hframe.initialized
  have hhost := opOf_host i p pins b
  refine ⟨htc, hce, fun hfault => ?_⟩
  rw [← hhost] at hfault ⊢
  exact Ran.asCommand_fault hfault

theorem ontick_keepsSetFlags (p : Params) (b : Block) : KeepsSetFlags b (ontick p b).asEvent := by
  obtain ⟨hhost, _, _, htc, _, hce, _⟩ := ontick_frame p b
  obtain ⟨_, htone, _, hcad, _⟩ := (ontick p b).asEvent_groups
  refine ⟨fun h => ?tcInit, fun h => ?ceInit, fun h => ?fault⟩
  case tcInit => rw [htone, htc, h]
  case ceInit => rw [hcad, hce, h]
  case fault =>
    rw [← hhost] at h ⊢
    exact Ran.asEvent_fault h

theorem respondedBlock_keepsSetFlags (p : Params) (pins : Pins) {e : Event} (he : e ≠ .reset) (b : Block) :
    KeepsSetFlags b (respondedBlock p pins e b) := by
  obtain ⟨h, _⟩ | ⟨_, i, _, _, h⟩ | ⟨_, _, h⟩ | ⟨_, _, h⟩ | ⟨_, _, h⟩ | ⟨_, _, _, h⟩ | ⟨_, _, h⟩ | ⟨hreset, _⟩ :=
    respondedBlock_cases p pins e b
  · rw [h]
    exact .refl b
  · rw [h]
    exact command_keepsSetFlags i p pins b
  · rw [h]
    obtain ⟨htc, hce, hfault⟩ := KeepsSetFlags.recordFault b .illegalCommand
    exact ⟨htc, hce, hfault⟩
  · rw [h]
    exact ⟨id, id, fun hf => ⟨hf, rfl⟩⟩
  · rw [h]
    exact ⟨id, id, fun hf => ⟨hf, rfl⟩⟩
  · rw [h]
    exact .recordFault b _
  · rw [h]
    obtain ⟨htc, hce, hfault⟩ := ontick_keepsSetFlags p b.reload
    exact ⟨htc, hce, hfault⟩
  · contradiction

/-- A step that takes an input and answers `t` leaves the block of its answer. -/
theorem step_block {s t : State} {inp : Input} {rest : List Input} (hin : s.env.inputs = inp :: rest)
    (hstep : step s = .next t) : t.block = respondedBlock s.env.params inp.pins inp.event s.block := by
  rw [step_eq hin, Host.Outcome.next.injEq] at hstep
  rw [← hstep]
  rfl

/-- Settles O12: an idle step changes nothing, and every answer but the reset keeps the flags. -/
theorem onlyResetClears : Obligations.OnlyResetClears := by
  unfold Obligations.OnlyResetClears
  intro s t hstep hreset
  have hkeeps : KeepsSetFlags s.block t.block := by
    cases hin : s.env.inputs with
    | nil =>
      rw [step_idle hin, Host.Outcome.next.injEq] at hstep
      rw [hstep]
      exact .refl _
    | cons inp rest =>
      rw [step_block hin hstep]
      exact respondedBlock_keepsSetFlags _ _ (hreset inp rest hin) _
  exact ⟨hkeeps.tcInit, hkeeps.ceInit, hkeeps.fault⟩

/-! ### The active copies -/

/-- An accepted event leaves in the active copies what the preload registers held before it (R117). -/
theorem tickEvent_reloads (p : Params) {b : Block} (hr : b.drv.run = true) :
    (tickEvent p b).drv.pscAct = some b.drv.pscPre ∧ (tickEvent p b).drv.periodAct = some b.drv.periodPre ∧
      (tickEvent p b).drv.pulseAct = some b.drv.pulsePre ∧ (tickEvent p b).drv.run = true := by
  obtain ⟨_, _, ⟨hrun, hpsc, hperiod, hpulse⟩, _⟩ := ontick_frame p b.reload
  obtain ⟨_, _, hdrv, _⟩ := (ontick p b.reload).asEvent_groups
  rw [tickEvent_running p hr, hdrv]
  exact ⟨hpsc, hperiod, hpulse, hrun.trans hr⟩

/-- No answer but an accepted event and a reset writes the active copies, except as a start (R118, R235). -/
theorem respondedBlock_active (p : Params) (pins : Pins) {e : Event} {b : Block} (hreset : e ≠ .reset)
    (htick : e = .cycleComplete → b.drv.run = false) :
    SameActive b.drv (respondedBlock p pins e b).drv ∧ ((respondedBlock p pins e b).drv.run = true → b.drv.run = true) ∨
    Started b.drv (respondedBlock p pins e b).drv := by
  have unwritten : ∀ {b' : Block}, b'.drv = b.drv →
      SameActive b.drv b'.drv ∧ (b'.drv.run = true → b.drv.run = true) ∨ Started b.drv b'.drv := by
    intro b' hdrv
    rw [hdrv]
    exact (OpFrame.refl .init b).active
  obtain ⟨h, _⟩ | ⟨_, i, _, _, h⟩ | ⟨_, _, h⟩ | ⟨_, _, h⟩ | ⟨_, _, h⟩ | ⟨_, _, _, h⟩ | ⟨he, hr, _⟩ | ⟨he, _⟩ :=
    respondedBlock_cases p pins e b
  · rw [h]
    exact unwritten rfl
  · rw [h]
    exact (opOf_opFrame i p pins b).asCommand.active
  · rw [h]
    exact unwritten rfl
  · rw [h]
    exact unwritten rfl
  · rw [h]
    exact unwritten rfl
  · rw [h]
    exact unwritten rfl
  · rw [htick he] at hr
    contradiction
  · contradiction

/-- Settles O39: the accepted event is `tickEvent_reloads`, every other answer but a reset `respondedBlock_active`. -/
theorem activeCopiesChangeAtReloadAndStart : Obligations.ActiveCopiesChangeAtReloadAndStart := by
  unfold Obligations.ActiveCopiesChangeAtReloadAndStart
  intro s t inp rest hin hstep
  rw [step_block hin hstep]
  refine ⟨fun hevent hrun => ?accepted, fun hreset htick => ?other⟩
  case accepted =>
    rw [hevent]
    exact tickEvent_reloads _ hrun
  case other =>
    obtain ⟨⟨hpsc, hperiod, hpulse⟩, hrun⟩ | hstart := respondedBlock_active s.env.params inp.pins hreset htick
    · exact .inl ⟨hpsc, hperiod, hpulse, hrun⟩
    · exact .inr hstart

end Sys2Proof.Machine

/-! PROOFS. The update and the duty (spec/40_pwm_driver.md, spec/41_tone_controller.md): the bounds of a passing update,
MUTE, MUTE with UNMUTE, and the tone as the calculator's result (R107 to R110, R120, R136 to R139, R238). -/

namespace Sys2Proof.Machine

/-! ### The bounds of a passing update -/

/-- The prescaler register of a passing update holds at least 1 (R12, R106). -/
theorem Preloaded.one_le_pscPre {p : Params} {clk f d : Nat} {r : DriverState} (h : Preloaded p clk f d r)
    (hready : CalcReady p clk f d) : 1 ≤ r.pscPre.toNat := by
  obtain ⟨hpsc, _⟩ := h
  obtain ⟨_, _, _, hclk⟩ := hready
  have hprescaler := one_le_prescaler hclk
  rw [hpsc, ← prescaler_toNat]
  omega

/-- The period register holds at most the clock (R110). -/
theorem Preloaded.periodPre_le {p : Params} {clk f d : Nat} {r : DriverState} (h : Preloaded p clk f d r) :
    r.periodPre.toNat ≤ clk := by
  obtain ⟨_, hperiod, _⟩ := h
  rw [hperiod]
  exact Nat.div_le_self _ _

/-- The period is 0 exactly when the divisor exceeds the clock (R107, R120). -/
theorem Preloaded.periodPre_eq_zero_iff {p : Params} {clk f d : Nat} {r : DriverState} (h : Preloaded p clk f d r)
    (hready : CalcReady p clk f d) : r.periodPre.toNat = 0 ↔ r.pscPre.toNat * f > clk := by
  have hpsc_pos := h.one_le_pscPre hready
  obtain ⟨hpsc, hperiod, _⟩ := h
  obtain ⟨_, _, hf, _⟩ := hready
  have hdivisor : r.pscPre.toNat * f ≠ 0 := Nat.mul_ne_zero (by omega) (by omega)
  rw [hperiod, ← hpsc, Nat.div_eq_zero_iff, or_iff_right hdivisor]

theorem Preloaded.of_duty_eq {p : Params} {clk f d d' : Nat} {r : DriverState} (h : Preloaded p clk f d r)
    (hd : d = d') : Preloaded p clk f d' r := hd ▸ h

/-- Full duty holds the output for the whole period (R109, R120). -/
theorem Preloaded.pulsePre_eq_periodPre {p : Params} {clk f : Nat} {r : DriverState} (h : Preloaded p clk f 100 r) :
    r.pulsePre = r.periodPre := by
  obtain ⟨_, hperiod, hpulse⟩ := h
  apply BitVec.eq_of_toNat_eq
  rw [hpulse, hperiod]
  exact pulse_hundred _

/-- Settles O18: the registers hold the formulas, and each bound is a fact about registers that do. -/
theorem passingUpdateBounds : Obligations.PassingUpdateBounds := by
  unfold Obligations.PassingUpdateBounds
  intro s clk f d hinit hready
  have ⟨_, hd, _⟩ := hready
  have hop : opOf .drvUpdate s.env.params s.env.pins s.block = _ :=
    (opOf_drvUpdate_initialized _ _ hinit).trans (drvUpdate_ok hready)
  have hpre := calcPreload_preloaded s.env.params f hd s.block
  refine ⟨_, exec_ok hop, rfl, hpre, hpre.pulsePre_le_periodPre hd, hpre.periodPre_le, hpre.one_le_pscPre hready,
    hpre.periodPre_eq_zero_iff hready, fun hzero => ?muted, fun hfull => ?full⟩
  case muted => exact (hpre.of_duty_eq hzero).pulsePre_eq_zero
  case full => exact (hpre.of_duty_eq hfull).pulsePre_eq_periodPre

/-! ### MUTE -/

/-- Settles O23: MUTE is `setDuty` at duty 0, so its endings are those of `setDuty`. -/
theorem muteCommand : Obligations.MuteCommand := by
  unfold Obligations.MuteCommand
  intro s p clk f
  refine ⟨fun huninit => ?uninitialized, fun hinit hf => ?invalid, fun hinit hf hzero => ?divisorZero,
    fun hinit hready => ?ok⟩
  case uninitialized => exact exec_notInitialized (setDuty_uninitialized huninit)
  case invalid => exact exec_invalidParameter (setDuty_invalid hinit (.inl hf))
  case divisorZero => exact exec_raises (setDuty_divisorZero hinit hf (Nat.zero_le 100) hzero)
  case ok =>
    have hpre := calcPreload_preloaded p f (Nat.zero_le 100) s.block
    exact ⟨_, hpre, hpre.pulsePre_eq_zero, calcPreload_same p f 0 s.block, exec_ok (setDuty_ok hinit hready)⟩

/-! ### MUTE and UNMUTE twice -/

/-- Once ended, MUTE and UNMUTE end the same way again and leave the block as it is (R136): the condition of each ending
reads nothing that the ending writes. -/
theorem setDuty_asCommand_idempotent (p : Params) (d : Nat) (b : Block) :
    (setDuty p d (setDuty p d b).asCommand).asCommand = (setDuty p d b).asCommand := by
  obtain ⟨ht, h⟩ | ⟨ht, ⟨hbad, h⟩ | ⟨⟨hf, hd, hz⟩, h⟩ | ⟨hr, h⟩⟩ := setDuty_cases p d b <;> rw [h]
  · rw [Ran.asCommand_notInitialized, setDuty_uninitialized (b := b.withResult .notInitialized) ht]
    rfl
  · rw [Ran.asCommand_invalidParameter, setDuty_invalid (b := b.withResult .invalidParameter) ht hbad]
    rfl
  · rw [Ran.asCommand_raised, setDuty_divisorZero (b := (b.recordFault _).withResult _) ht hf hd hz]
    apply Block.ext_groups <;> simp
  · rw [Ran.asCommand_ok,
      setDuty_ok (b := ((calcPreload p _ d b).withToneDuty (BitVec.ofNat 8 d)).withResult .ok) ht hr]
    rfl

/-- A command whose operation repeats without effect repeats without effect. -/
theorem exec_repeats {i : Instr} {s t : State}
    (h : (opOf i s.env.params s.env.pins (opOf i s.env.params s.env.pins s.block).asCommand).asCommand =
      (opOf i s.env.params s.env.pins s.block).asCommand)
    (hexec : exec i s = .next t) : exec i t = .next t := by
  rw [exec_eq_next hexec, exec_eq_command, command, h]

/-- Settles O25: both commands are `setDuty`. -/
theorem muteIsIdempotent : Obligations.MuteIsIdempotent := by
  unfold Obligations.MuteIsIdempotent
  intro s t
  exact ⟨exec_repeats (setDuty_asCommand_idempotent _ 0 _), exec_repeats (setDuty_asCommand_idempotent _ _ _)⟩

/-! ### MUTE, then UNMUTE -/

/-- Settles O26: the invariant makes the calculator ready for both duties, and the second update has the last word. -/
theorem muteThenUnmuteRestores : Obligations.MuteThenUnmuteRestores := by
  unfold Obligations.MuteThenUnmuteRestores
  intro s hi hinit hf hclk
  have hduty : s.env.params.defaultDuty ≤ 100 := s.env.params.defaultDuty_range.2
  have hready : CalcReady s.env.params s.block.chan.clockHz.toNat s.block.tone.toneFreq.toNat
      s.env.params.defaultDuty := ⟨hi.freq hinit, hduty, hf, hclk⟩
  have hmute : exec .mute s = _ := exec_ok (setDuty_ok hinit (calcReady_zero hready))
  refine ⟨_, _, hmute, exec_ok (setDuty_ok hinit hready), rfl, ?preloaded, toNat_ofNat_defaultDuty _, rfl, rfl⟩
  case preloaded => exact calcPreload_preloaded s.env.params s.block.tone.toneFreq.toNat hduty (State.block _)

/-! ### The tone and the preload registers -/

/-- The registers hold the calculator's result for the stored tone (R139). -/
def ToneIsPreloaded (p : Params) (b : Block) : Prop :=
  Preloaded p b.chan.clockHz.toNat b.tone.toneFreq.toNat b.tone.toneDuty.toNat b.drv

/-- The tone and the preload registers are those from before (R139). -/
def ToneUntouched (b b' : Block) : Prop :=
  b'.tone = b.tone ∧ b'.drv.pscPre = b.drv.pscPre ∧ b'.drv.periodPre = b.drv.periodPre ∧
    b'.drv.pulsePre = b.drv.pulsePre

/-- After an `OK` the tone is what was preloaded; after another ending nothing of either was written (R139). -/
structure ToneStays (p : Params) (b : Block) (m : Ran) : Prop where
  ok : m.2 = .ok → ToneIsPreloaded p m.1
  failed : m.2 ≠ .ok → ToneUntouched b m.1

theorem toneStays_failed {p : Params} {b : Block} {r : Reply} (hr : r ≠ .ok) : ToneStays p b (b, r) :=
  ⟨fun h => absurd h hr, fun _ => ⟨rfl, rfl, rfl, rfl⟩⟩

theorem toneStays_started {p : Params} {b : Block} {r : Reply} (hr : r ≠ .ok) : ToneStays p b (b.startRun, r) :=
  ⟨fun h => absurd h hr, fun _ => ⟨rfl, rfl, rfl, rfl⟩⟩

theorem toneStays_ok {p : Params} {b b' : Block} (h : ToneIsPreloaded p b') : ToneStays p b (b', .ok) :=
  ⟨fun _ => h, fun hne => absurd rfl hne⟩

theorem toneOn_toneStays (p : Params) (f : Nat) (b : Block) : ToneStays p b (toneOn p f b) := by
  obtain ⟨_, h⟩ | ⟨_, ⟨_, h⟩ | ⟨_, ⟨_, h⟩ | ⟨_, h⟩ | ⟨hr, h⟩⟩⟩ := toneOn_cases p f b <;> rw [h]
  · exact toneStays_failed nofun
  · exact toneStays_failed nofun
  · exact toneStays_started nofun
  · exact toneStays_started nofun
  · apply toneStays_ok
    simp only [ToneIsPreloaded, Block.withToneDuty_chan, Block.withToneDuty_tone, Block.withToneDuty_drv,
      Block.withToneFreq_chan, Block.withToneFreq_drv, Block.withToneFreq_tone, toNat_ofNat_defaultDuty,
      hr.toNat_ofNat]
    exact calcPreload_preloaded p f p.defaultDuty_range.2 b.startRun

theorem toneUpdateFreq_toneStays (p : Params) (f : Nat) (b : Block) : ToneStays p b (toneUpdateFreq p f b) := by
  obtain ⟨_, h⟩ | ⟨_, ⟨_, h⟩ | ⟨_, h⟩ | ⟨hr, h⟩⟩ := toneUpdateFreq_cases p f b <;> rw [h]
  · exact toneStays_failed nofun
  · exact toneStays_failed nofun
  · exact toneStays_failed nofun
  · have ⟨_, hd, _⟩ := hr
    apply toneStays_ok
    simp only [ToneIsPreloaded, Block.withToneFreq_chan, Block.withToneFreq_drv, Block.withToneFreq_tone,
      hr.toNat_ofNat]
    exact calcPreload_preloaded p f hd b

theorem setDuty_toneStays (p : Params) {d : Nat} (hd : d ≤ 100) (b : Block) : ToneStays p b (setDuty p d b) := by
  have hword : (BitVec.ofNat 8 d).toNat = d := by rw [BitVec.toNat_ofNat, Nat.mod_eq_of_lt (by omega)]
  obtain ⟨_, h⟩ | ⟨_, ⟨_, h⟩ | ⟨_, h⟩ | ⟨_, h⟩⟩ := setDuty_cases p d b <;> rw [h]
  · exact toneStays_failed nofun
  · exact toneStays_failed nofun
  · exact toneStays_failed nofun
  · apply toneStays_ok
    simp only [ToneIsPreloaded, Block.withToneDuty_tone, hword]
    exact calcPreload_preloaded p _ hd b

theorem opOf_toneStays {i : Instr} (hi : i = .on ∨ i = .updateFreq ∨ i = .mute ∨ i = .unmute) (p : Params) (pins : Pins)
    (b : Block) : ToneStays p b (opOf i p pins b) := by
  obtain rfl | rfl | rfl | rfl := hi
  · exact toneOn_toneStays p _ b
  · exact toneUpdateFreq_toneStays p _ b
  · exact setDuty_toneStays p (Nat.zero_le 100) b
  · exact setDuty_toneStays p p.defaultDuty_range.2 b

/-- Settles O27: the four operations by `opOf_toneStays`; their ending writes neither the tone nor the registers. -/
theorem toneStateMatchesPreload : Obligations.ToneStateMatchesPreload := by
  unfold Obligations.ToneStateMatchesPreload
  intro i s t hi hexec
  obtain ⟨hok, hfailed⟩ := opOf_toneStays hi s.env.params s.env.pins s.block
  obtain ⟨hchan, htone, hdrv, _⟩ := (opOf i s.env.params s.env.pins s.block).asCommand_groups
  rw [exec_eq_next hexec]
  simp only [Ran.asCommand_result, ne_eq, Reply.result_eq_ok_iff, hchan, htone, hdrv]
  exact ⟨hok, hfailed⟩

/-! ### A direct DRV_UPDATE before MUTE or UNMUTE -/

/-- `b'` is `b` up to the preload registers and the host group: what a direct DRV_UPDATE may have written (R238). -/
structure SameButUpdate (b b' : Block) : Prop where
  chan : b'.chan = b.chan
  tone : b'.tone = b.tone
  drv : SameButPreload b.drv b'.drv
  cad : b'.cad = b.cad

theorem opOf_drvUpdate_same (p : Params) (pins : Pins) (b : Block) : SameButUpdate b (opOf .drvUpdate p pins b).1 := by
  have unwritten : SameButUpdate b b := ⟨rfl, rfl, ⟨rfl, rfl, rfl, rfl⟩, rfl⟩
  cases ht : b.tone.tcInit with
  | false =>
    have hop : opOf .drvUpdate p pins b = _ := guarded_uninitialized ht _
    rwa [hop]
  | true =>
    rw [opOf_drvUpdate_initialized p pins ht]
    obtain ⟨_, h⟩ | ⟨_, h⟩ | ⟨_, h⟩ := drvUpdate_cases p b.host.arg0.toNat b.host.arg1.toNat b <;> rw [h]
    · exact unwritten
    · exact unwritten
    · exact ⟨rfl, rfl, calcPreload_same p _ _ b, rfl⟩

/-- A MUTE or UNMUTE that succeeds on `b` succeeds on `b'`, where it reads the same and overwrites the registers. -/
theorem SameButUpdate.setDuty {b b' : Block} (h : SameButUpdate b b') {p : Params} {d : Nat}
    (hok : (setDuty p d b).2 = .ok) : setDuty p d b' = ({ (setDuty p d b).1 with host := b'.host }, .ok) := by
  obtain ⟨hchan, htone, ⟨hrun, hpsc, hperiod, hpulse⟩, hcad⟩ := h
  obtain ⟨_, he⟩ | ⟨ht, ⟨_, he⟩ | ⟨_, he⟩ | ⟨hr, he⟩⟩ := setDuty_cases p d b <;> rw [he] at hok ⊢
  · contradiction
  · contradiction
  · contradiction
  · rw [setDuty_ok (by rw [htone, ht]) (by rwa [hchan, htone])]
    congr 1
    apply Block.ext_groups <;> simp [calcPreload, hchan, htone, hcad, hrun, hpsc, hperiod, hpulse]

/-- A command that did not fault writes `RESULT` alone of the host group. -/
theorem Ran.asCommand_of_not_fault {m : Ran} (h : m.asCommand.host.result ≠ .fault) :
    m.asCommand = m.1.withResult m.2.result := by
  obtain ⟨b, _ | _ | _ | c⟩ := m
  case raised => exact absurd rfl h
  all_goals rfl

theorem Ran.asCommand_of_reply_ok {m : Ran} (h : m.2 = .ok) : m.asCommand = m.1.withResult .ok := by
  obtain ⟨b, _ | _ | _ | c⟩ := m
  case ok => rfl
  all_goals contradiction

/-- Both end in one block when `b'` differs from `b` no more than a DRV_UPDATE that did not fault leaves it (R238). -/
theorem SameButUpdate.setDuty_asCommand {b b' : Block} (h : SameButUpdate b b') {r : Result}
    (hhost : b'.host = { b.host with result := r }) {p : Params} {d : Nat} (hok : (Machine.setDuty p d b).2 = .ok) :
    (Machine.setDuty p d b').asCommand = (Machine.setDuty p d b).asCommand := by
  have hframe := (setDuty_frame p d b).1
  rw [h.setDuty hok, Ran.asCommand_ok, Ran.asCommand_of_reply_ok hok, hhost]
  apply Block.ext_groups <;> simp [hframe]

/-- R238 for a command that is `setDuty`. -/
theorem setDuty_undoes_drvUpdate {s t u v : State} {i : Instr} {d : Nat}
    (hop : ∀ b, opOf i s.env.params s.env.pins b = setDuty s.env.params d b) (ht : exec .drvUpdate s = .next t)
    (hfault : t.block.host.result ≠ .fault) (hu : exec i t = .next u) (hv : exec i s = .next v)
    (hok : v.block.host.result = .ok) : u = v := by
  have hreply := opOf_reply_ok hv hok
  rw [hop] at hreply
  have henv : t.env = s.env := by rw [exec_eq_next ht]
  have hblock : t.block = (opOf .drvUpdate s.env.params s.env.pins s.block).asCommand := by rw [exec_eq_next ht]
  rw [hblock] at hfault
  rw [Ran.asCommand_of_not_fault hfault] at hblock
  obtain ⟨hchan, htone, hdrv, hcad⟩ := opOf_drvUpdate_same s.env.params s.env.pins s.block
  have hsame : SameButUpdate s.block t.block := by
    rw [hblock]
    exact ⟨hchan, htone, hdrv, hcad⟩
  have hhost : t.block.host = { s.block.host with result := t.block.host.result } := by
    rw [hblock, Block.withResult_host, opOf_host]
  rw [exec_eq_next hu, exec_eq_next hv, henv, hop, hop, hsame.setDuty_asCommand hhost hreply]

/-- Settles O57: MUTE and UNMUTE are `setDuty`. -/
theorem directUpdateIsUndone : Obligations.DirectUpdateIsUndone := by
  unfold Obligations.DirectUpdateIsUndone
  intro s t u v i hi
  obtain rfl | rfl := hi
  · exact setDuty_undoes_drvUpdate (i := .mute) (toneMute_eq s.env.params)
  · exact setDuty_undoes_drvUpdate (i := .unmute) (toneUnmute_eq s.env.params)

end Sys2Proof.Machine

/-! PROOFS. The tick transition and the state machine of the Engine (spec/42_cadence_engine.md): the cases of a playing
tick, its faults, the phases, and what the invariant gives (R45, R161, R172 to R178, R182, R184 to R186, R208). -/

namespace Sys2Proof.Machine

/-! ### The phases -/

theorem phaseOf_uninitialized_iff (c : CadenceState) : phaseOf c = .uninitialized ↔ c.ceInit = false := by
  unfold phaseOf
  split_ifs <;> simp_all

theorem phaseOf_paused_iff (c : CadenceState) : phaseOf c = .paused ↔ c.ceInit = true ∧ c.paused = true := by
  unfold phaseOf
  split_ifs <;> simp_all

theorem phaseOf_playingAudible_iff (c : CadenceState) :
    phaseOf c = .playingAudible ↔ c.ceInit = true ∧ c.paused = false ∧ c.audible = true := by
  unfold phaseOf
  split_ifs <;> simp_all

theorem phaseOf_playingMuted_iff (c : CadenceState) :
    phaseOf c = .playingMuted ↔ c.ceInit = true ∧ c.paused = false ∧ c.audible = false := by
  unfold phaseOf
  split_ifs <;> simp_all

/-- Settles O40: one lemma per state. -/
theorem phasesAreFlagConditions : Obligations.PhasesAreFlagConditions := by
  unfold Obligations.PhasesAreFlagConditions
  intro c
  exact ⟨phaseOf_uninitialized_iff c, phaseOf_paused_iff c, phaseOf_playingAudible_iff c, phaseOf_playingMuted_iff c⟩

/-- A playing Engine is in the sub-state that `AUDIBLE` says (R45). -/
theorem phaseOf_playing {c : CadenceState} (hc : c.ceInit = true) (hp : c.paused = false) :
    phaseOf c = if c.audible then .playingAudible else .playingMuted := by
  simp [phaseOf, hc, hp]

/-! ### The bound of the present sub-state -/

/-- The bound that the counter of the present sub-state runs to (R173 to R176). -/
def phaseBound (c : CadenceState) : Word := if c.audible then c.onTicks else c.offTicks

/-- The duty cycle that belongs to a sub-state (R173 to R176). -/
def phaseDuty (p : Params) (audible : Bool) : Nat := if audible then p.defaultDuty else 0

theorem phaseDuty_le (p : Params) (audible : Bool) : phaseDuty p audible ≤ 100 := by
  have hrange := p.defaultDuty_range
  cases audible <;> simp [phaseDuty, hrange]

/-- Below the bound the tick stays in the sub-state, steps 2 and 4 (R173, R175). -/
theorem tick_below_bound (p : Params) {c : CadenceState} (h : c.tickCnt.toNat < (phaseBound c).toNat) :
    tickedCadence c = { c with tickCnt := c.tickCnt + 1 } ∧ tickedDuty p c = some (phaseDuty p c.audible) := by
  cases ha : c.audible with
  | true =>
    have hcase : tickCase c = .stayAudible := (tickCase_stayAudible_iff c).2 ⟨ha, by simpa [phaseBound, ha] using h⟩
    simp [tickedCadence, tickedDuty, hcase, phaseDuty, ha]
  | false =>
    have hcase : tickCase c = .stayMuted := (tickCase_stayMuted_iff c).2 ⟨ha, by simpa [phaseBound, ha] using h⟩
    simp [tickedCadence, tickedDuty, hcase, phaseDuty, ha]

/-- At the bound the tick flips the sub-state, steps 3 and 5 (R174, R176). -/
theorem tick_at_bound (p : Params) {c : CadenceState} (h : c.tickCnt.toNat = (phaseBound c).toNat) :
    tickedCadence c = { c with audible := !c.audible, tickCnt := 0 } ∧
      tickedDuty p c = some (phaseDuty p (!c.audible)) := by
  cases ha : c.audible with
  | true =>
    have hcase : tickCase c = .flipMuted := (tickCase_flipMuted_iff c).2 ⟨ha, by simpa [phaseBound, ha] using h⟩
    simp [tickedCadence, tickedDuty, hcase, phaseDuty]
  | false =>
    have hcase : tickCase c = .flipAudible := (tickCase_flipAudible_iff c).2 ⟨ha, by simpa [phaseBound, ha] using h⟩
    simp [tickedCadence, tickedDuty, hcase, phaseDuty]

/-- Above both bounds the tick recovers to audible, step 1 (R172). -/
theorem tick_above_bounds (p : Params) {c : CadenceState} (hon : c.tickCnt.toNat > c.onTicks.toNat)
    (hoff : c.tickCnt.toNat > c.offTicks.toNat) :
    tickedCadence c = { c with audible := true, tickCnt := 0 } ∧ tickedDuty p c = some (phaseDuty p true) := by
  have hcase : tickCase c = .recover := (tickCase_recover_iff c).2 ⟨hon, hoff⟩
  simp [tickedCadence, tickedDuty, hcase, phaseDuty]

/-- Above its own bound only, the tick makes no call (R177). -/
theorem tick_between_bounds (p : Params) {c : CadenceState} (hbound : (phaseBound c).toNat < c.tickCnt.toNat)
    (hmax : c.tickCnt.toNat ≤ max c.onTicks.toNat c.offTicks.toNat) :
    tickedCadence c = { c with tickCnt := c.tickCnt + 1 } ∧ tickedDuty p c = none := by
  have hcase : tickCase c = .noStep := by
    rw [tickCase_noStep_iff]
    cases ha : c.audible
    · simp only [phaseBound, ha, Bool.false_eq_true, if_false] at hbound
      exact .inr ⟨rfl, hbound, by omega⟩
    · simp only [phaseBound, ha, if_true] at hbound
      exact .inl ⟨rfl, hbound, by omega⟩
  simp [tickedCadence, tickedDuty, hcase]

/-- The four ways a counter can stand to the bounds. -/
theorem tickCnt_cases (c : CadenceState) :
    c.tickCnt.toNat < (phaseBound c).toNat ∨ c.tickCnt.toNat = (phaseBound c).toNat ∨
    (c.tickCnt.toNat > c.onTicks.toNat ∧ c.tickCnt.toNat > c.offTicks.toNat) ∨
    ((phaseBound c).toNat < c.tickCnt.toNat ∧ c.tickCnt.toNat ≤ max c.onTicks.toNat c.offTicks.toNat) := by
  have hbound : (phaseBound c).toNat = c.onTicks.toNat ∨ (phaseBound c).toNat = c.offTicks.toNat := by
    cases ha : c.audible <;> simp [phaseBound, ha]
  omega

/-! ### A playing tick -/

theorem ticked_of_call {p : Params} {b : Block} {d : Nat} (h : tickedDuty p b.cad = some d) :
    ticked p b = { (calcPreload p b.tone.toneFreq.toNat d b).withToneDuty (BitVec.ofNat 8 d) with
      cad := tickedCadence b.cad } := by
  simp only [ticked, h]

theorem ticked_of_no_call {p : Params} {b : Block} (h : tickedDuty p b.cad = none) :
    ticked p b = { b with cad := tickedCadence b.cad } := by
  simp only [ticked, h]

theorem ticked_toneDuty {p : Params} {b : Block} {d : Nat} (h : tickedDuty p b.cad = some d) :
    (ticked p b).tone.toneDuty = BitVec.ofNat 8 d := by
  rw [ticked_of_call h]
  rfl

/-- ONTICK of a playing Engine, when its call sets the duty `d` and leaves the cadence `c'`. -/
theorem exec_onTick_call {s : State} {d : Nat} {c' : CadenceState} (ht : s.block.tone.tcInit = true)
    (hr : CalcReady s.env.params s.block.chan.clockHz.toNat s.block.tone.toneFreq.toNat s.env.params.defaultDuty)
    (hc : s.block.cad.ceInit = true) (hp : s.block.cad.paused = false) (hd : d ≤ 100)
    (h : tickedCadence s.block.cad = c' ∧ tickedDuty s.env.params s.block.cad = some d) :
    ∃ r, Preloaded s.env.params s.block.chan.clockHz.toNat s.block.tone.toneFreq.toNat d r ∧
      SameButPreload s.block.drv r ∧
      exec .onTick s = .next (s.ends { s.block with
        drv := r, tone := { s.block.tone with toneDuty := BitVec.ofNat 8 d }, cad := c' } .ok) := by
  obtain ⟨rfl, hduty⟩ := h
  refine ⟨_, calcPreload_preloaded s.env.params s.block.tone.toneFreq.toNat hd s.block,
    calcPreload_same s.env.params _ d s.block, exec_ok ((ontick_playing ht hr hc hp).trans ?_)⟩
  rw [ticked_of_call hduty]
  rfl

/-- ONTICK of a playing Engine that makes no call. -/
theorem exec_onTick_no_call {s : State} {c' : CadenceState} (ht : s.block.tone.tcInit = true)
    (hr : CalcReady s.env.params s.block.chan.clockHz.toNat s.block.tone.toneFreq.toNat s.env.params.defaultDuty)
    (hc : s.block.cad.ceInit = true) (hp : s.block.cad.paused = false)
    (h : tickedCadence s.block.cad = c' ∧ tickedDuty s.env.params s.block.cad = none) :
    exec .onTick s = .next (s.ends { s.block with cad := c' } .ok) := by
  obtain ⟨rfl, hduty⟩ := h
  exact exec_ok ((ontick_playing ht hr hc hp).trans (by rw [ticked_of_no_call hduty]))

/-- Settles O35: where the counter stands to the bounds fixes the cadence and the call. -/
theorem playingTickSteps : Obligations.PlayingTickSteps := by
  unfold Obligations.PlayingTickSteps
  intro s p clk f c t on off unmutes mutes hinit hready hengine hplaying
  have hduty : p.defaultDuty ≤ 100 := p.defaultDuty_range.2
  have call {d : Nat} {c' : CadenceState} (hd : d ≤ 100) := exec_onTick_call (c' := c') hinit hready hengine hplaying hd
  refine ⟨fun hon hoff => ?recover, fun ha hlt => ?stayAudible, fun ha heq => ?flipMuted, fun ha hlt => ?stayMuted,
    fun ha heq => ?flipAudible, fun ha hlo hhi => ?noStepAudible, fun ha hlo hhi => ?noStepMuted⟩
  case recover => exact call hduty (tick_above_bounds p hon hoff)
  case stayAudible =>
    obtain ⟨hcad, hcall⟩ := tick_below_bound p (c := c) (by rwa [phaseBound, ha])
    rw [ha] at hcall
    exact call hduty ⟨hcad, hcall⟩
  case flipMuted =>
    have htick := tick_at_bound p (c := c) (by rwa [phaseBound, ha])
    rw [ha] at htick
    exact call (Nat.zero_le 100) htick
  case stayMuted =>
    obtain ⟨hcad, hcall⟩ := tick_below_bound p (c := c) (by rwa [phaseBound, ha])
    rw [ha] at hcall
    exact call (Nat.zero_le 100) ⟨hcad, hcall⟩
  case flipAudible =>
    have htick := tick_at_bound p (c := c) (by rwa [phaseBound, ha])
    rw [ha] at htick
    exact call hduty htick
  case noStepAudible =>
    exact exec_onTick_no_call hinit hready hengine hplaying
      (tick_between_bounds p (by rwa [phaseBound, ha]) (hhi.trans (Nat.le_max_right _ _)))
  case noStepMuted =>
    exact exec_onTick_no_call hinit hready hengine hplaying
      (tick_between_bounds p (by rwa [phaseBound, ha]) (hhi.trans (Nat.le_max_left _ _)))

/-! ### A tick whose call faults -/

/-- Steps 1 and 5 write `AUDIBLE` before the call and the counter after it (R172, R176, R178). -/
theorem ontick_to_audible (p : Params) {b : Block} (hc : b.cad.ceInit = true) (hp : b.cad.paused = false)
    (hk : tickCase b.cad = .recover ∨ tickCase b.cad = .flipAudible) :
    ontick p b = (setDuty p p.defaultDuty (b.withAudible true)).unlessRaised (·.withTickCnt 0) := by
  obtain hk | hk := hk <;> simp [ontick, hc, hp, hk, toneUnmute_eq]

/-- Step 3 writes `AUDIBLE` before the call and the counter after it (R174, R178). -/
theorem ontick_to_muted (p : Params) {b : Block} (hc : b.cad.ceInit = true) (hp : b.cad.paused = false)
    (hk : tickCase b.cad = .flipMuted) :
    ontick p b = (setDuty p 0 (b.withAudible false)).unlessRaised (·.withTickCnt 0) := by
  simp [ontick, hc, hp, hk, toneMute_eq]

/-- Steps 2 and 4 write the counter after the call and nothing before it (R173, R175, R178). -/
theorem ontick_stays (p : Params) {b : Block} (hc : b.cad.ceInit = true) (hp : b.cad.paused = false)
    (hk : tickCase b.cad = .stayAudible ∨ tickCase b.cad = .stayMuted) :
    ontick p b =
      (setDuty p (phaseDuty p b.cad.audible) b).unlessRaised (·.withTickCnt (b.cad.tickCnt + 1)) := by
  obtain hk | hk := hk
  · obtain ⟨ha, _⟩ := (tickCase_stayAudible_iff _).1 hk
    simp [ontick, hc, hp, hk, toneUnmute_eq, phaseDuty, ha]
  · obtain ⟨ha, _⟩ := (tickCase_stayMuted_iff _).1 hk
    simp [ontick, hc, hp, hk, toneMute_eq, phaseDuty, ha]

/-- Settles O37: the call raises on the block that the step had written, and no write follows. -/
theorem faultingTickKeepsTheCounter : Obligations.FaultingTickKeepsTheCounter := by
  unfold Obligations.FaultingTickKeepsTheCounter
  intro s clk f c t on off hinit hf hzero hengine hplaying
  have hduty : s.env.params.defaultDuty ≤ 100 := s.env.params.defaultDuty_range.2
  refine ⟨fun hstep => ?toAudible, fun ha heq => ?toMuted, fun hstep => ?stays⟩
  case toAudible =>
    have hk : tickCase c = .recover ∨ tickCase c = .flipAudible :=
      hstep.imp (tickCase_recover_iff c).2 (tickCase_flipAudible_iff c).2
    refine exec_raises ((ontick_to_audible _ hengine hplaying hk).trans ?_)
    rw [setDuty_divisorZero (b := s.block.withAudible true) hinit hf hduty hzero]
    rfl
  case toMuted =>
    refine exec_raises ((ontick_to_muted _ hengine hplaying ((tickCase_flipMuted_iff c).2 ⟨ha, heq⟩)).trans ?_)
    rw [setDuty_divisorZero (b := s.block.withAudible false) hinit hf (Nat.zero_le 100) hzero]
    rfl
  case stays =>
    have hk : tickCase c = .stayAudible ∨ tickCase c = .stayMuted :=
      hstep.imp (tickCase_stayAudible_iff c).2 (tickCase_stayMuted_iff c).2
    refine exec_raises ((ontick_stays _ hengine hplaying hk).trans ?_)
    rw [setDuty_divisorZero hinit hf (phaseDuty_le _ _) hzero]
    rfl

/-! ### Ticks and PAUSE under the invariant -/

/-- In a state that meets the invariant a tick ends in `OK` and writes nothing of the host group (R178). -/
theorem InvOn.ontick_ends_ok {p : Params} {b : Block} (h : InvOn p b) :
    ∃ b', Machine.ontick p b = (b', .ok) ∧ b'.host = b.host := by
  obtain ⟨b', hop, _⟩ := ontick_of_inv h
  refine ⟨b', hop, ?_⟩
  have hhost := (ontick_frame p b).1
  rwa [show Machine.ontick p b = (b', .ok) from hop] at hhost

theorem InvOn.tickEvent_host {p : Params} {b : Block} (h : InvOn p b) : (Machine.tickEvent p b).host = b.host := by
  cases hr : b.drv.run with
  | false => rw [tickEvent_stopped p hr]
  | true =>
    obtain ⟨b', hop, hhost⟩ := (h.reload (h.tcInit_of_run hr)).ontick_ends_ok
    rw [tickEvent_running p hr, hop]
    exact hhost

/-- A PAUSE of an initialized Engine mutes, and ends in `OK` (R169, R178). -/
theorem InvOn.pause_ok {p : Params} {b : Block} (h : InvOn p b) (hc : b.cad.ceInit = true) :
    Machine.pause p b =
      ((Machine.calcPreload p b.tone.toneFreq.toNat 0 b.enterPause).withToneDuty (BitVec.ofNat 8 0), .ok) :=
  (pause_initialized hc).trans (setDuty_ok (b := b.enterPause) (h.engine hc) (calcReady_zero (h.ready hc)))

/-- A command whose operation ends in `OK` and leaves the host group writes `RESULT` alone of it. -/
theorem exec_host_of_ok {i : Instr} {s t : State} {b : Block} (h : exec i s = .next t)
    (hop : opOf i s.env.params s.env.pins s.block = (b, .ok)) :
    t.block.host = { s.block.host with result := .ok } := by
  have hhost := opOf_host i s.env.params s.env.pins s.block
  rw [hop] at hhost
  rw [exec_eq_next h, hop, Ran.asCommand_ok, Block.withResult_host, hhost]

/-- Settles O42: the operations end in `OK`, and the event leaves the host group. -/
theorem ticksNeverFail : Obligations.TicksNeverFail := by
  unfold Obligations.TicksNeverFail
  intro s t hi
  have hinv := (inv_iff_invOn s).1 hi
  refine ⟨fun hexec => ?onTick, fun hengine hexec => ?pause, fun pins rest hin hstep => ?event⟩
  case onTick =>
    obtain ⟨b', hop, _⟩ := hinv.ontick_ends_ok
    rw [exec_host_of_ok hexec hop]
    exact ⟨rfl, rfl⟩
  case pause =>
    rw [exec_host_of_ok hexec (hinv.pause_ok hengine)]
    exact ⟨rfl, rfl⟩
  case event =>
    rw [step_block hin hstep]
    exact hinv.tickEvent_host

/-- The cadence group after ONTICK of a state that meets the invariant. -/
theorem exec_onTick_cad {s t : State} (hi : Inv s) (h : exec .onTick s = .next t) :
    t.block.cad =
      if s.block.cad.ceInit = true ∧ s.block.cad.paused = false then tickedCadence s.block.cad else s.block.cad := by
  obtain ⟨_, _, _, hcad⟩ := (opOf .onTick s.env.params s.env.pins s.block).asCommand_groups
  rw [exec_eq_next h, hcad]
  exact ontick_cad_of_inv hi

/-! ### The transition table -/

/-- A tick leaves a playing Engine audible when it flips to it or recovers, and when it does not flip from it. -/
theorem tickedCadence_audible (c : CadenceState) :
    (tickedCadence c).audible =
      if c.audible then decide (c.tickCnt.toNat ≠ c.onTicks.toNat)
      else decide (c.tickCnt.toNat = c.offTicks.toNat ∨
        (c.tickCnt.toNat > c.onTicks.toNat ∧ c.tickCnt.toNat > c.offTicks.toNat)) := by
  have hbound : (phaseBound c) = if c.audible then c.onTicks else c.offTicks := rfl
  obtain h | h | ⟨hon, hoff⟩ | ⟨h, hmax⟩ := tickCnt_cases c
  · rw [(tick_below_bound default h).1]
    cases ha : c.audible <;> simp [hbound, ha] at h ⊢ <;> omega
  · rw [(tick_at_bound default h).1]
    cases ha : c.audible <;> simp [hbound, ha] at h ⊢ <;> omega
  · rw [(tick_above_bounds default hon hoff).1]
    cases ha : c.audible <;> simp <;> omega
  · rw [(tick_between_bounds default h hmax).1]
    cases ha : c.audible <;> simp [hbound, ha] at h ⊢ <;> omega

theorem tickedCadence_phase {c : CadenceState} (hc : c.ceInit = true) (hp : c.paused = false) :
    phaseOf (tickedCadence c) = if (tickedCadence c).audible then .playingAudible else .playingMuted := by
  obtain ⟨hc', hp', _⟩ := tickedCadence_flags c
  exact phaseOf_playing (hc'.trans hc) (hp'.trans hp)

/-- PLAY moves the Engine only when it succeeds, and then to playing, in the sub-state that `AUDIBLE` says; the
first one starts muted (R161, R165, R167). -/
theorem play_phase (p : Params) (w : Word) (b : Block) :
    ((play p w b).2 ≠ .ok → (play p w b).1.cad = b.cad) ∧
    ((play p w b).2 = .ok → phaseOf (play p w b).1.cad =
      if b.cad.ceInit = true ∧ b.cad.audible = true then .playingAudible else .playingMuted) := by
  obtain ⟨_, h⟩ | ⟨_, ⟨_, _, h⟩ | ⟨_, _, ⟨hc, h⟩ | ⟨hc, ⟨_, h⟩ | ⟨_, ⟨_, h⟩ | ⟨_, h⟩ | ⟨_, h⟩⟩⟩⟩⟩ :=
    play_cases p w b <;> rw [h]
  · simp
  · simp
  · simp [phaseOf, hc]
  · simp
  · simp
  · simp
  · simp [phaseOf, playedFirst, hc]

/-- PAUSE of an initialized Engine moves it to `Paused`, whatever its MUTE ends with (R161, R169). -/
theorem pause_phase (p : Params) {b : Block} (hc : b.cad.ceInit = true) :
    phaseOf (pause p b).1.cad = .paused := by
  obtain ⟨_, _, hcad, _⟩ := setDuty_frame p 0 b.enterPause
  rw [pause_initialized hc, hcad, phaseOf_paused_iff]
  exact ⟨hc, rfl⟩

/-- Settles O41: PLAY by `play_phase`, PAUSE by `pause_phase`, a tick by `tickedCadence_audible`, the other commands by
their frame. -/
theorem stateMachineTransitions : Obligations.StateMachineTransitions := by
  unfold Obligations.StateMachineTransitions
  intro s t hi c n on off now
  refine ⟨fun hexec => ?play, fun hexec => ?pause, fun hexec => ?tick, fun i hexec => (exec_opFrame hexec).cad⟩
  case play =>
    obtain ⟨_, _, _, hcad⟩ := (opOf .play s.env.params s.env.pins s.block).asCommand_groups
    have hblock := congrArg State.block (exec_eq_next hexec)
    obtain ⟨hfailed, hok⟩ := play_phase s.env.params (distanceOperand s.block) s.block
    simp only [now, hblock, hcad, Ran.asCommand_result, Reply.result_eq_ok_iff, ne_eq]
    refine ⟨fun hne => congrArg phaseOf (hfailed hne), fun heq => ?_⟩
    have hnow := hok heq
    refine ⟨fun hphase => hnow.trans ?_, fun hphase => hnow.trans ?_, fun hphase => hnow.trans ?_,
      fun hphase => hnow.trans ?_⟩
    · exact if_neg fun h => Bool.false_ne_true (((phaseOf_uninitialized_iff c).1 hphase).symm.trans h.1)
    · obtain ⟨hc, _, ha⟩ := (phaseOf_playingAudible_iff c).1 hphase
      exact if_pos ⟨hc, ha⟩
    · obtain ⟨_, _, ha⟩ := (phaseOf_playingMuted_iff c).1 hphase
      exact if_neg fun h => Bool.false_ne_true (ha.symm.trans h.2)
    · obtain ⟨hc, _⟩ := (phaseOf_paused_iff c).1 hphase
      simp only [show s.block.cad.ceInit = true from hc, true_and, c]
  case pause =>
    have hinv := (inv_iff_invOn s).1 hi
    obtain ⟨_, _, _, hcad⟩ := (pause s.env.params s.block).asCommand_groups
    have hblock : t.block = (pause s.env.params s.block).asCommand := congrArg State.block (exec_eq_next hexec)
    simp only [now, hblock, hcad, Ran.asCommand_result]
    refine ⟨fun hphase => ?_, fun hphase => ?_⟩
    · rw [pause_uninitialized ((phaseOf_uninitialized_iff c).1 hphase)]
      exact ⟨hphase, rfl⟩
    · have hc : s.block.cad.ceInit = true := by simpa using mt (phaseOf_uninitialized_iff c).2 hphase
      refine ⟨pause_phase _ hc, ?_⟩
      rw [hinv.pause_ok hc]
      rfl
  case tick =>
    have hcad : t.block.cad = _ := exec_onTick_cad hi hexec
    have playing (hc : c.ceInit = true) (hp : c.paused = false) :
        now = if (tickedCadence c).audible then .playingAudible else .playingMuted :=
      (congrArg phaseOf (hcad.trans (if_pos ⟨hc, hp⟩))).trans (tickedCadence_phase hc hp)
    have idle (hne : ¬(c.ceInit = true ∧ c.paused = false)) : now = phaseOf c :=
      congrArg phaseOf (hcad.trans (if_neg hne))
    refine ⟨fun hphase => ?uninitialized, fun hphase => ?paused, fun hphase => ?audible, fun hphase => ?muted⟩
    case uninitialized =>
      have hc := (phaseOf_uninitialized_iff c).1 hphase
      rw [idle (by simp [hc]), hphase]
    case paused =>
      obtain ⟨_, hp⟩ := (phaseOf_paused_iff c).1 hphase
      rw [idle (by simp [hp]), hphase]
    case audible =>
      obtain ⟨hc, hp, ha⟩ := (phaseOf_playingAudible_iff c).1 hphase
      rw [playing hc hp, tickedCadence_audible, ha]
      simp [n, on]
    case muted =>
      obtain ⟨hc, hp, ha⟩ := (phaseOf_playingMuted_iff c).1 hphase
      rw [playing hc hp, tickedCadence_audible, ha]
      simp [n, on, off]

end Sys2Proof.Machine

/-! PROOFS. What follows of a tick and of PLAY in a state that meets the invariant: the decision as a function of the
cadence (R182), the bound of the counter (R186), the resumed sub-state (R184) and the latest PLAY (R185). -/

namespace Sys2Proof.Machine

/-! ### The decision of a tick -/

/-- The duty cycle that the call of a tick sets, if it makes one: in `Uninitialized` it makes none, in `Paused` it mutes
(R170, R171). -/
def calledDuty (p : Params) (c : CadenceState) : Option Nat :=
  if c.ceInit then if c.paused then some 0 else tickedDuty p c else none

theorem calledDuty_playing (p : Params) {c : CadenceState} (hc : c.ceInit = true) (hp : c.paused = false) :
    calledDuty p c = tickedDuty p c := by
  simp [calledDuty, hc, hp]

theorem calledDuty_eq_none_iff (p : Params) (c : CadenceState) : calledDuty p c = none ↔ TickMakesNoCall c := by
  cases hc : c.ceInit with
  | false => simp [calledDuty, TickMakesNoCall, hc]
  | true =>
    cases hp : c.paused with
    | true => simp [calledDuty, TickMakesNoCall, hc, hp]
    | false => rw [calledDuty_playing p hc hp, tickedDuty_eq_none_iff hc hp]

/-- Of the parameters the decision reads `DEFAULT_DUTY` alone (R182). -/
theorem calledDuty_congr {p p' : Params} (h : p.defaultDuty = p'.defaultDuty) (c : CadenceState) :
    calledDuty p c = calledDuty p' c := by
  simp only [calledDuty, tickedDuty, h]

/-- The stored duty after ONTICK of a state that meets the invariant: that of the call, or as it was. -/
theorem exec_onTick_toneDuty {s t : State} (hi : Inv s) (h : exec .onTick s = .next t) :
    t.block.tone.toneDuty =
      (calledDuty s.env.params s.block.cad).elim s.block.tone.toneDuty (BitVec.ofNat 8) := by
  obtain ⟨b', hop, hidle, hpaused, hplaying⟩ := ontick_of_inv hi
  have hblock : t.block = (ontick s.env.params s.block).asCommand := congrArg State.block (exec_eq_next h)
  rw [hblock, hop, Ran.asCommand_ok, Block.withResult_tone]
  cases hc : s.block.cad.ceInit with
  | false =>
    rw [hidle hc]
    simp [calledDuty, hc]
  | true =>
    cases hp : s.block.cad.paused with
    | true =>
      rw [hpaused hc hp]
      simp [calledDuty, hc, hp]
    | false =>
      rw [hplaying hc hp, calledDuty_playing _ hc hp]
      cases hd : tickedDuty s.env.params s.block.cad with
      | none =>
        rw [ticked_of_no_call hd]
        rfl
      | some d => exact ticked_toneDuty hd

/-- Settles O43: the cadence group and the call are functions of the cadence group and of `DEFAULT_DUTY`. -/
theorem tickDecisionIsAFunctionOfTheCadence : Obligations.TickDecisionIsAFunctionOfTheCadence := by
  unfold Obligations.TickDecisionIsAFunctionOfTheCadence
  intro s s' t t' hi hi' hcad hduty ht ht'
  have hcall := calledDuty_congr hduty s.block.cad
  have htone := exec_onTick_toneDuty hi ht
  have htone' := exec_onTick_toneDuty hi' ht'
  rw [← hcad, ← hcall] at htone'
  refine ⟨?cadence, fun hnone => ?noCall, fun hsome => ?call⟩
  case cadence => rw [exec_onTick_cad hi ht, exec_onTick_cad hi' ht', hcad]
  case noCall =>
    rw [htone, htone', (calledDuty_eq_none_iff _ _).2 hnone]
    exact ⟨rfl, rfl⟩
  case call =>
    obtain ⟨d, hd⟩ := Option.ne_none_iff_exists'.1 (mt (calledDuty_eq_none_iff s.env.params _).1 hsome)
    rw [htone, htone', hd]
    rfl

/-! ### The counter -/

theorem tickedCadence_tickCnt_le (c : CadenceState) :
    (tickedCadence c).tickCnt.toNat ≤ max c.onTicks.toNat c.offTicks.toNat + 1 := by
  have hsucc : (c.tickCnt + 1).toNat ≤ c.tickCnt.toNat + 1 := Nat.mod_le _ _
  have hbound : (phaseBound c).toNat ≤ max c.onTicks.toNat c.offTicks.toNat := by
    cases ha : c.audible <;> simp [phaseBound, ha]
  obtain h | h | ⟨hon, hoff⟩ | ⟨h, hmax⟩ := tickCnt_cases c
  · rw [(tick_below_bound default h).1]
    exact hsucc.trans (by omega)
  · rw [(tick_at_bound default h).1]
    exact Nat.zero_le _
  · rw [(tick_above_bounds default hon hoff).1]
    exact Nat.zero_le _
  · rw [(tick_between_bounds default h hmax).1]
    exact hsucc.trans (by omega)

/-- Settles O44: a playing tick leaves `tickedCadence`, which keeps the bounds. -/
theorem tickBoundsTheCounter : Obligations.TickBoundsTheCounter := by
  unfold Obligations.TickBoundsTheCounter
  intro s t hi hengine hplaying hexec
  obtain ⟨_, _, hon, hoff⟩ := tickedCadence_flags s.block.cad
  rw [exec_onTick_cad hi hexec, if_pos ⟨hengine, hplaying⟩, hon, hoff]
  exact tickedCadence_tickCnt_le _

/-! ### PLAY in `Paused` -/

/-- A command keeps the invariant. -/
theorem exec_inv {i : Instr} {s t : State} (hi : Inv s) (h : exec i s = .next t) : Inv t := by
  rw [exec_eq_next h, inv_iff_invOn]
  exact (((inv_iff_invOn s).1 hi).opOf i s.env.pins).asCommand

/-- The tick from a counter at 0: it flips when the bound of the sub-state is 0, and else counts (R173 to R176). -/
theorem tick_from_zero (p : Params) {c : CadenceState} (h0 : c.tickCnt = 0) :
    tickedCadence c =
      (if phaseBound c = 0 then { c with audible := !c.audible, tickCnt := 0 } else { c with tickCnt := 1 }) ∧
    tickedDuty p c = some (phaseDuty p (if phaseBound c = 0 then !c.audible else c.audible)) := by
  by_cases hb : phaseBound c = 0
  · rw [if_pos hb, if_pos hb]
    exact tick_at_bound p (by rw [h0, hb])
  · have hpos : 0 < (phaseBound c).toNat := Nat.pos_of_ne_zero fun h => hb (BitVec.eq_of_toNat_eq h)
    rw [if_neg hb, if_neg hb]
    obtain ⟨hcad, hduty⟩ := tick_below_bound p (c := c) (by rwa [h0])
    rw [hcad, h0]
    exact ⟨rfl, hduty⟩

/-- The word of a sub-state's duty cycle holds it exactly. -/
theorem toNat_ofNat_phaseDuty (p : Params) (audible : Bool) :
    (BitVec.ofNat 8 (phaseDuty p audible)).toNat = phaseDuty p audible := by
  cases audible with
  | false => rfl
  | true => exact toNat_ofNat_defaultDuty p

/-- Settles O47: PLAY writes the bounds and clears the flag alone, and the tick after it starts from a counter at 0. -/
theorem resumeFromPause : Obligations.ResumeFromPause := by
  unfold Obligations.ResumeFromPause
  intro s t u off hi hengine hpaused hd hplay htick
  have hop : opOf .play s.env.params s.env.pins s.block = _ := play_later (hi.engine hengine) hengine hd
  have ht : t = s.ends (s.block.withBounds s.env.params.onTicksBase off) .ok := by
    rw [exec_eq_next hplay, hop]
    rfl
  have henv : t.env = s.env := by rw [ht]; rfl
  have hti := exec_inv hi hplay
  have hcnt : t.block.cad.tickCnt = 0 := by
    rw [ht]
    exact hi.halted hpaused
  have hplaying : t.block.cad.ceInit = true ∧ t.block.cad.paused = false := by
    rw [ht]
    exact ⟨hengine, rfl⟩
  obtain ⟨hcad, hduty⟩ := tick_from_zero t.env.params hcnt
  have hucad := exec_onTick_cad hti htick
  have hutone := exec_onTick_toneDuty hti htick
  rw [if_pos hplaying, hcad] at hucad
  rw [calledDuty_playing _ hplaying.1 hplaying.2, hduty, Option.elim_some] at hutone
  have hunat : u.block.tone.toneDuty.toNat = _ := (congrArg BitVec.toNat hutone).trans (toNat_ofNat_phaseDuty _ _)
  rw [hucad, hunat, henv]
  refine ⟨hplaying.2, by rw [ht]; rfl, hcnt, by rw [ht]; rfl, by rw [ht]; rfl, fun ha => ?audible, fun ha => ?muted⟩
  case audible =>
    have hta : t.block.cad.audible = true := by rw [ht]; exact ha
    have hbound : phaseBound t.block.cad = s.env.params.onTicksBase := by rw [phaseBound, hta, ht]; rfl
    rw [hbound, hta]
    by_cases hzero : s.env.params.onTicksBase = 0#32 <;> simp [hzero, phaseDuty]
  case muted =>
    have hta : t.block.cad.audible = false := by rw [ht]; exact ha
    have hbound : phaseBound t.block.cad = off := by rw [phaseBound, hta, ht]; rfl
    rw [hbound, hta]
    by_cases hzero : off = 0#32 <;> simp [hzero, phaseDuty]

/-! ### Two PLAYs -/

/-- After a PLAY that succeeded, a PLAY with the distance `w` leaves the block that it leaves on the block from before
the first one (R185). -/
theorem play_after_play {p : Params} {w₁ w off : Word} {b : Block} (hd : distToTicks p w = .ok off)
    (hok : (play p w₁ b).2 = .ok) :
    ∃ b', play p w (((play p w₁ b).1.withResult .ok).withArg0 w) = (b', .ok) ∧ b'.cad.offTicks = off ∧
      ∃ b'', play p w (b.withArg0 w) = (b'', .ok) ∧ b'.withResult .ok = b''.withResult .ok := by
  obtain ⟨_, h⟩ | ⟨ht, ⟨_, _, h⟩ | ⟨_, _, ⟨hc, h⟩ | ⟨hc, ⟨_, h⟩ | ⟨hr, ⟨_, h⟩ | ⟨_, h⟩ | ⟨hready, h⟩⟩⟩⟩⟩ :=
    play_cases p w₁ b <;> rw [h] at hok ⊢
  case inr.inr.inl =>
    exact ⟨_, play_later ht hc hd, rfl, _, play_later (b := b.withArg0 w) ht hc hd, rfl⟩
  case inr.inr.inr.inr.inr.inr =>
    exact ⟨_, play_later ht rfl hd, rfl, _, play_first_ok (b := b.withArg0 w) ht hc hr hd hready, rfl⟩
  all_goals contradiction

/-- Settles O48: the second PLAY and the one alone end in `play_after_play`'s block. -/
theorem latestPlayWins : Obligations.LatestPlayWins := by
  unfold Obligations.LatestPlayWins
  intro s t u v w off hd ht hok hu hv
  have hreply : (play s.env.params (distanceOperand s.block) s.block).2 = .ok := opOf_reply_ok ht hok
  obtain ⟨b', hsecond, hoff, b'', halone, hsame⟩ := play_after_play hd hreply
  have ht' : t = { s with block := (play s.env.params (distanceOperand s.block) s.block).asCommand } := exec_eq_next ht
  rw [Ran.asCommand_of_reply_ok hreply] at ht'
  subst ht'
  have hu' : u = s.ends b' .ok := Host.Outcome.next.inj (hu.symm.trans (exec_ok hsecond))
  have hv' : v = s.ends b'' .ok := Host.Outcome.next.inj (hv.symm.trans (exec_ok halone))
  refine ⟨?same, by rw [hu']; exact hoff, by rw [hu']; rfl⟩
  case same =>
    rw [hu', hv']
    exact congrArg (fun b => { s with block := b }) hsame

end Sys2Proof.Machine

/-! PROOFS. Runs of cycle-complete events (spec/42_cadence_engine.md section 6, spec/70_reset_and_hazards.md): a run as
the iterated event, the muted and the audible phase (R183), the frozen cadence (R240), safety (R178, R204), and the
operand write that commutes with an event (R74, R91). -/

namespace Sys2Proof.Machine

/-! ### A run of events -/

/-- A run that takes `ticks` answers, keeps the parameters and leaves the event iterated on the block. -/
theorem run_ticks {s : State} {ticks rest : List Input} (hall : AllTicks ticks) (hin : s.env.inputs = ticks ++ rest) :
    ∃ t : State, core.run ticks.length s = .next t ∧ t.env.inputs = rest ∧ t.env.params = s.env.params ∧
      t.block = (tickEvent s.env.params)^[ticks.length] s.block := by
  induction ticks generalizing s with
  | nil => exact ⟨s, rfl, hin, rfl, rfl⟩
  | cons inp ticks ih =>
    obtain ⟨hfirst, hrest⟩ := List.forall_mem_cons.1 hall
    obtain ⟨t, hrun, hinputs, hparams, hblock⟩ := ih hrest
      (s := s.after inp (ticks ++ rest) (respondedBlock s.env.params inp.pins inp.event s.block)) rfl
    rw [hfirst] at hblock
    exact ⟨t, (run_input hin).trans hrun, hinputs, hparams, hblock⟩

/-! ### A running, playing Engine -/

/-- The channel runs and the Engine plays, in a block that meets the invariant. -/
structure Ticking (p : Params) (b : Block) : Prop where
  inv : InvOn p b
  run : b.drv.run = true
  engine : b.cad.ceInit = true
  playing : b.cad.paused = false

/-- The event of such a block is the playing tick on the reloaded block (R119, R178). -/
theorem Ticking.tickEvent_eq {p : Params} {b : Block} (h : Ticking p b) : tickEvent p b = ticked p b.reload := by
  rw [tickEvent_running p h.run,
    ontick_playing (b := b.reload) (h.inv.engine h.engine) (h.inv.ready h.engine) h.engine h.playing, Ran.asEvent_ok]

theorem Ticking.tickEvent_cad {p : Params} {b : Block} (h : Ticking p b) :
    (tickEvent p b).cad = tickedCadence b.cad := by
  rw [h.tickEvent_eq, ticked_cad, Block.reload_cad]

theorem Ticking.tickEvent {p : Params} {b : Block} (h : Ticking p b) : Ticking p (tickEvent p b) := by
  obtain ⟨_, _, _, hrun⟩ := tickEvent_reloads p h.run
  obtain ⟨hc, hp, _⟩ := tickedCadence_flags b.cad
  refine ⟨h.inv.tickEvent, hrun, ?_, ?_⟩
  · rw [h.tickEvent_cad, hc, h.engine]
  · rw [h.tickEvent_cad, hp, h.playing]

theorem Ticking.iterate {p : Params} {b : Block} (h : Ticking p b) (k : Nat) :
    Ticking p ((Machine.tickEvent p)^[k] b) := by
  induction k with
  | zero => exact h
  | succ k ih =>
    rw [Function.iterate_succ_apply']
    exact ih.tickEvent

theorem Ticking.iterate_cad {p : Params} {b : Block} (h : Ticking p b) (k : Nat) :
    ((Machine.tickEvent p)^[k] b).cad = tickedCadence^[k] b.cad := by
  induction k with
  | zero => rfl
  | succ k ih => rw [Function.iterate_succ_apply', Function.iterate_succ_apply', (h.iterate k).tickEvent_cad, ih]

/-- The tone and the output that belong to a sub-state: its duty is stored, and the muted one has a pulse of 0. -/
structure Sounds (p : Params) (audible : Bool) (b : Block) : Prop where
  duty : b.tone.toneDuty = BitVec.ofNat 8 (phaseDuty p audible)
  pulse : audible = false → b.drv.pulsePre = 0

/-- An event whose tick calls for a sub-state's duty leaves its tone and output. -/
theorem Ticking.tickEvent_sounds {p : Params} {b : Block} (h : Ticking p b) {audible : Bool}
    (hd : tickedDuty p b.cad = some (phaseDuty p audible)) : Sounds p audible (Machine.tickEvent p b) := by
  rw [h.tickEvent_eq]
  refine ⟨ticked_toneDuty (b := b.reload) hd, fun hmuted => ?_⟩
  rw [ticked_of_call (b := b.reload) hd]
  have hpre := calcPreload_preloaded p b.tone.toneFreq.toNat (phaseDuty_le p audible) b.reload
  exact (hpre.of_duty_eq (by rw [hmuted]; rfl)).pulsePre_eq_zero

/-! ### One phase -/

/-- From a counter at 0, `k` ticks up to the bound count to `k` (R173, R175, R183). -/
theorem tickedCadence_iterate {c : CadenceState} (h0 : c.tickCnt = 0) {k : Nat} (hk : k ≤ (phaseBound c).toNat) :
    tickedCadence^[k] c = { c with tickCnt := BitVec.ofNat 32 k } := by
  induction k with
  | zero => rw [Function.iterate_zero_apply, ← show c.tickCnt = BitVec.ofNat 32 0 from h0]
  | succ k ih =>
    have hlt : (BitVec.ofNat 32 k).toNat < (phaseBound c).toNat := lt_of_le_of_lt (Nat.mod_le _ _) hk
    rw [Function.iterate_succ_apply', ih (by omega),
      (tick_below_bound default (c := { c with tickCnt := BitVec.ofNat 32 k }) hlt).1, BitVec.ofNat_add]
    rfl

theorem toNat_ofNat_of_le {k : Nat} {bound : Word} (hk : k ≤ bound.toNat) : (BitVec.ofNat 32 k).toNat = k := by
  rw [BitVec.toNat_ofNat, Nat.mod_eq_of_lt (lt_of_le_of_lt hk bound.isLt)]

/-- Inside a phase: after 1 to `bound` events the counter stands at their number, and the tone is the sub-state's. -/
theorem Ticking.inside_phase {p : Params} {b : Block} (h : Ticking p b) (h0 : b.cad.tickCnt = 0) {k : Nat}
    (hk : k < (phaseBound b.cad).toNat) : Sounds p b.cad.audible ((Machine.tickEvent p)^[k + 1] b) := by
  rw [Function.iterate_succ_apply']
  apply (h.iterate k).tickEvent_sounds
  rw [h.iterate_cad, tickedCadence_iterate h0 hk.le]
  exact (tick_below_bound p (c := { b.cad with tickCnt := BitVec.ofNat 32 k })
    (by rw [toNat_ofNat_of_le hk.le]; exact hk)).2

/-- The end of a phase: the event after the bound flips the sub-state, at a counter of 0 (R174, R176, R183). -/
theorem Ticking.phase_end {p : Params} {b : Block} (h : Ticking p b) (h0 : b.cad.tickCnt = 0) :
    ((Machine.tickEvent p)^[(phaseBound b.cad).toNat + 1] b).cad =
      { b.cad with audible := !b.cad.audible, tickCnt := 0 } ∧
    Sounds p (!b.cad.audible) ((Machine.tickEvent p)^[(phaseBound b.cad).toNat + 1] b) := by
  have hcad := h.iterate_cad (phaseBound b.cad).toNat
  rw [tickedCadence_iterate h0 le_rfl, BitVec.ofNat_toNat, BitVec.setWidth_eq] at hcad
  obtain ⟨hnext, hduty⟩ := tick_at_bound p (c := { b.cad with tickCnt := phaseBound b.cad }) rfl
  have hticking := h.iterate (phaseBound b.cad).toNat
  rw [Function.iterate_succ_apply']
  refine ⟨?_, hticking.tickEvent_sounds (by rw [hcad]; exact hduty)⟩
  rw [hticking.tickEvent_cad, hcad, hnext]

/-- Settles O45: the run is the iterated event, inside the phase up to the bound and at its end after it. -/
theorem mutedPhaseLength : Obligations.MutedPhaseLength := by
  unfold Obligations.MutedPhaseLength
  intro s ticks rest k hi hrun hengine hplaying hmuted h0 hall hlen hin hk
  have h : Ticking s.env.params s.block := ⟨(inv_iff_invOn s).1 hi, hrun, hengine, hplaying⟩
  have hbound : phaseBound s.block.cad = s.block.cad.offTicks := by simp [phaseBound, hmuted]
  obtain ⟨t, hrunk, hinputs, _, hblock⟩ := run_ticks hall hin
  rw [hlen] at hrunk hblock
  refine ⟨t, hrunk, hinputs, fun hinside => ⟨?counter, fun hpos => ?tone⟩, fun hend => ?flip⟩
  case counter =>
    rw [hblock, h.iterate_cad]
    exact tickedCadence_iterate h0 (by rwa [hbound])
  case tone =>
    obtain ⟨j, rfl⟩ := Nat.exists_eq_add_of_le' hpos
    obtain ⟨hduty, hpulse⟩ := h.inside_phase h0 (k := j) (by rw [hbound]; exact hinside)
    rw [hmuted] at hduty
    rw [hblock]
    exact ⟨hduty, hpulse hmuted⟩
  case flip =>
    obtain ⟨hcad, hduty, _⟩ := h.phase_end h0
    rw [hmuted, hbound, ← hend, ← hblock] at hcad hduty
    refine ⟨hcad, ?_⟩
    rw [hduty]
    exact toNat_ofNat_defaultDuty _

/-- Settles O46: the muted phase and then the audible one, each ended by its flip. -/
theorem fullCadenceReturns : Obligations.FullCadenceReturns := by
  unfold Obligations.FullCadenceReturns
  intro s ticks rest hi hrun hengine hplaying hmuted h0 hall hlen hin
  set m := s.block.cad.offTicks.toNat with hm
  set n := s.block.cad.onTicks.toNat with hn
  have h : Ticking s.env.params s.block := ⟨(inv_iff_invOn s).1 hi, hrun, hengine, hplaying⟩
  have hsplit : s.env.inputs = ticks.take (m + 1) ++ (ticks.drop (m + 1) ++ rest) := by
    rw [hin, ← List.append_assoc, List.take_append_drop]
  obtain ⟨t, hrunt, htin, htp, htblock⟩ := run_ticks (fun inp hmem => hall inp (List.mem_of_mem_take hmem)) hsplit
  obtain ⟨u, hrunu, huin, _, hublock⟩ := run_ticks (fun inp hmem => hall inp (List.mem_of_mem_drop hmem)) htin
  rw [List.length_take_of_le (by omega)] at hrunt htblock
  rw [List.length_drop, show ticks.length - (m + 1) = n + 1 by omega] at hrunu hublock
  have htticking : Ticking s.env.params t.block := by
    rw [htblock]
    exact h.iterate _
  have hboundm : (phaseBound s.block.cad).toNat = m := by simp [phaseBound, hmuted, hm]
  obtain ⟨htcad, _⟩ := h.phase_end h0
  rw [hboundm, ← htblock, hmuted] at htcad
  have hboundn : (phaseBound t.block.cad).toNat = n := by rw [htcad]; rfl
  obtain ⟨hucad, huduty, hupulse⟩ := htticking.phase_end (by rw [htcad])
  rw [hboundn, ← htp, ← hublock] at hucad huduty hupulse
  rw [htcad] at hucad huduty hupulse
  refine ⟨t, u, hrunt, by rw [htcad]; rfl, hrunu, huin, ?cadence, huduty, hupulse rfl, ?run⟩
  case cadence =>
    have hentry : s.block.cad = { s.block.cad with audible := false, tickCnt := 0 } := by rw [← hmuted, ← h0]
    exact hucad.trans hentry.symm
  case run =>
    rw [hublock, htp]
    exact (htticking.iterate _).run

/-! ### A stopped channel -/

/-- Settles O58: after the stop the event leaves the block, any number of times. -/
theorem offFreezesTheCadence : Obligations.OffFreezesTheCadence := by
  unfold Obligations.OffFreezesTheCadence
  intro i s t ticks rest hi hinit hexec hall hin
  have hstopped : t.block.drv.run = false := by
    rw [exec_eq_next hexec]
    obtain rfl | rfl := hi
    · have hop : opOf .off s.env.params s.env.pins s.block = _ := toneOff_initialized hinit
      rw [hop]
      rfl
    · rw [opOf_drvStop_initialized _ _ hinit]
      rfl
  obtain ⟨u, hrun, hinputs, _, hblock⟩ := run_ticks hall hin
  rw [Function.iterate_fixed (tickEvent_stopped _ hstopped)] at hblock
  exact ⟨u, hrun, hblock, hinputs⟩

/-! ### Safe runs -/

/-- Settles O60: each event keeps the invariant and the host group, so no fault is recorded on the way. -/
theorem tickRunsAreSafe : Obligations.TickRunsAreSafe := by
  unfold Obligations.TickRunsAreSafe
  intro s ticks rest hi hfault hall hin
  induction ticks generalizing s with
  | nil => exact hfault
  | cons inp ticks ih =>
    obtain ⟨hfirst, hrest⟩ := List.forall_mem_cons.1 hall
    have hinv := (inv_iff_invOn s).1 hi
    have hstep : step s = .next (s.after inp (ticks ++ rest) (tickEvent s.env.params s.block)) := by
      rw [step_eq hin, hfirst]
      rfl
    refine ⟨hfault, _, hstep, ih _ (stepKeepsTheInvariant _ _ hi hstep) ?_ hrest rfl⟩
    have hhost : (s.after inp (ticks ++ rest) (tickEvent s.env.params s.block)).block.host = s.block.host :=
      hinv.tickEvent_host
    rwa [noFault, hhost]

/-! ### An operand write beside an event -/

/-- The operation's answer on a block with another host group (R21). -/
def Ran.withHost (m : Ran) (h : HostRegs) : Ran := ({ m.1 with host := h }, m.2)

/-- `drv_update` reads and writes nothing of the host group. -/
theorem drvUpdate_withHost (p : Params) (f d : Nat) (b : Block) (h : HostRegs) :
    drvUpdate p f d { b with host := h } = (drvUpdate p f d b).withHost h := by
  simp only [drvUpdate]
  split_ifs <;> rfl

theorem setDuty_withHost (p : Params) (d : Nat) (b : Block) (h : HostRegs) :
    setDuty p d { b with host := h } = (setDuty p d b).withHost h := by
  cases ht : b.tone.tcInit with
  | false => rw [setDuty_uninitialized ht, setDuty_uninitialized (b := { b with host := h }) ht, Ran.withHost]
  | true =>
    unfold setDuty
    rw [guarded_initialized ht, guarded_initialized (b := { b with host := h }) ht, drvUpdate_withHost]
    obtain ⟨b', _ | _ | _ | c⟩ := drvUpdate p b.tone.toneFreq.toNat d b <;> rfl

/-- A write of the counter after a call reads and writes nothing of the host group. -/
theorem Ran.unlessRaised_withHost (m : Ran) (n : Word) (h : HostRegs) :
    (m.withHost h).unlessRaised (·.withTickCnt n) = (m.unlessRaised (·.withTickCnt n)).withHost h := by
  obtain ⟨b, _ | _ | _ | c⟩ := m <;> rfl

/-- The tick transition reads and writes nothing of the host group (R172 to R178). -/
theorem ontick_withHost (p : Params) (b : Block) (h : HostRegs) :
    ontick p { b with host := h } = (ontick p b).withHost h := by
  have haudible (a : Bool) : Block.withAudible { b with host := h } a = { b.withAudible a with host := h } := rfl
  simp only [ontick, toneMute_eq, toneUnmute_eq, haudible, setDuty_withHost, Ran.unlessRaised_withHost]
  split_ifs
  · rfl
  · rfl
  · cases tickCase b.cad <;> rfl

/-- A write of the host group that leaves the fault record as it is and reads nothing of it, as an operand write. -/
structure KeepsRecord (w : HostRegs → HostRegs) : Prop where
  fault : ∀ h, (w h).fault = h.fault
  cause : ∀ h, (w h).faultCause = h.faultCause
  record : ∀ h f c, w { h with fault := f, faultCause := c } = { w h with fault := f, faultCause := c }

/-- Such a write may be made before or after the event's ending. -/
theorem Ran.asEvent_hostWrite {w : HostRegs → HostRegs} (hw : KeepsRecord w) (m : Ran) :
    (m.withHost (w m.1.host)).asEvent = { m.asEvent with host := w m.asEvent.host } := by
  obtain ⟨b, _ | _ | _ | c⟩ := m
  case raised =>
    have hhost : w (b.recordFault c).host = { w b.host with
        fault := true, faultCause := if b.host.fault then b.host.faultCause else some c } := hw.record b.host _ _
    simp only [Ran.withHost, Ran.asEvent_raised, hhost]
    simp only [Block.recordFault, hw.fault, hw.cause]
  all_goals rfl

/-- The event and such a write commute: the transition reads nothing of the host group (R74). -/
theorem tickEvent_hostWrite {w : HostRegs → HostRegs} (hw : KeepsRecord w) (p : Params) (b : Block) :
    tickEvent p { b with host := w b.host } = { tickEvent p b with host := w (tickEvent p b).host } := by
  cases hr : b.drv.run with
  | false => rw [tickEvent_stopped p hr, tickEvent_stopped (b := { b with host := w b.host }) p hr]
  | true =>
    have hhost : (ontick p b.reload).1.host = b.host := (ontick_frame p b.reload).1
    rw [tickEvent_running p hr, tickEvent_running (b := { b with host := w b.host }) p hr, ← Ran.asEvent_hostWrite hw,
      hhost, ← ontick_withHost]
    rfl

/-- An operand write and an event leave one block in either order (R74, R91). -/
theorem tickEvent_writtenBlock (p : Params) (pins : Pins) {i : RegIdx} (hi : i = 1 ∨ i = 2) (v : Word) (b : Block) :
    tickEvent p (writtenBlock p pins i v b) = writtenBlock p pins i v (tickEvent p b) := by
  obtain rfl | rfl := hi
  · exact tickEvent_hostWrite (w := ({ · with arg0 := v })) ⟨fun _ => rfl, fun _ => rfl, fun _ _ _ => rfl⟩ p b
  · exact tickEvent_hostWrite (w := ({ · with arg1 := v })) ⟨fun _ => rfl, fun _ => rfl, fun _ _ _ => rfl⟩ p b

/-- A run of two inputs. -/
theorem run_two {s : State} {a b : Input} {rest : List Input} (hin : s.env.inputs = a :: b :: rest) :
    core.run 2 s = .next ((s.after a (b :: rest) (respondedBlock s.env.params a.pins a.event s.block)).after b rest
      (respondedBlock s.env.params b.pins b.event (respondedBlock s.env.params a.pins a.event s.block))) := by
  rw [run_input hin, run_input (k := 0) rfl]
  rfl

/-- Settles O59: both runs take two inputs, and `tickEvent_writtenBlock` makes their blocks one. -/
theorem operandWriteAndTickCommute : Obligations.OperandWriteAndTickCommute := by
  unfold Obligations.OperandWriteAndTickCommute
  intro s s' i v pins rest hi hs' hin
  subst hs'
  refine ⟨_, run_two hin, (run_two rfl).trans ?_⟩
  have hcommute := tickEvent_writtenBlock s.env.params pins hi v s.block
  simp only [State.after, respondedBlock, hcommute]

end Sys2Proof.Machine

/-! PROOFS. The words and signals computed from the flags: STATUS and BIND bit by bit, and the outputs (R41, R43, R44,
R87, R116). -/

namespace Sys2Proof.Machine

/-! ### A field of a register word -/

/-- A field read back at its own place (R43, R44). -/
theorem extractLsb'_field_same {n lo : Nat} (h : lo + n ≤ 32) (v : BitVec n) : (field lo v).extractLsb' lo n = v := by
  apply BitVec.eq_of_getLsbD_eq
  intro i hi
  simp [field, hi, show lo + i < 32 by omega]

/-- A field is 0 at every place it does not overlap (R43, R44). -/
theorem extractLsb'_field_disjoint {n lo start len : Nat} (h : start + len ≤ lo ∨ lo + n ≤ start) (v : BitVec n) :
    (field lo v).extractLsb' start len = 0 := by
  apply BitVec.eq_of_getLsbD_eq
  intro i hi
  have houtside : start + i < lo ∨ n ≤ start + i - lo := by omega
  obtain hbelow | habove := houtside
  · simp [field, hbelow]
  · simp [field, BitVec.getLsbD_of_ge v _ habove]

/-- The bit of a flag, at the flag's place. -/
theorem getLsbD_field_bit {lo : Nat} (h : lo < 32) (b : Bool) : (field lo (bit b)).getLsbD lo = b := by
  simp [field, bit, h]

theorem getLsbD_field_disjoint {n lo i : Nat} (h : i < lo ∨ lo + n ≤ i) (v : BitVec n) :
    (field lo v).getLsbD i = false := by
  have hzero : (field lo v).extractLsb' i 1 = 0 := extractLsb'_field_disjoint (by omega) v
  simpa using congrArg (BitVec.getLsbD · 0) hzero

/-- Settles O9: each field at its own place, the others disjoint from it. -/
theorem bindLayout : Obligations.BindLayout := by
  unfold Obligations.BindLayout
  intro b
  simp (disch := decide) only [bindWord, BitVec.extractLsb'_or, BitVec.getLsbD_or, extractLsb'_field_same,
    extractLsb'_field_disjoint, getLsbD_field_bit, getLsbD_field_disjoint, BitVec.ofNat_eq_ofNat, BitVec.or_zero,
    BitVec.zero_or, Bool.or_false, Bool.false_or, and_true]

/-- Settles O8: each field at its own place, the others disjoint from it; the codes by the case. -/
theorem statusLayout : Obligations.StatusLayout := by
  unfold Obligations.StatusLayout
  intro b
  simp (disch := decide) only [statusWord, BitVec.extractLsb'_or, BitVec.getLsbD_or, extractLsb'_field_same,
    extractLsb'_field_disjoint, getLsbD_field_bit, getLsbD_field_disjoint, BitVec.ofNat_eq_ofNat, BitVec.or_zero,
    BitVec.zero_or, Bool.or_false, Bool.false_or, true_and, and_true]
  refine ⟨?result, ?cause⟩
  case result => cases b.host.result <;> rfl
  case cause =>
    cases b.host.faultCause with
    | none => rfl
    | some c => cases c <;> rfl

/-- Settles O56: the enables by the value of `RUN`, the rest as driven. -/
theorem outputsFollowRun : Obligations.OutputsFollowRun := by
  unfold Obligations.OutputsFollowRun
  intro b
  refine ⟨fun hstopped => ?stopped, fun hrunning => ?running, rfl, rfl, rfl, rfl, rfl⟩
  case stopped => simp [timerOutputs, ccIe, pwmEnMain, pwmEnComp, hstopped]
  case running => simp [timerOutputs, ccIe, pwmEnMain, pwmEnComp, hrunning]

end Sys2Proof.Machine
